-- ==== Sys2Proof/Word.lean ====
section
/-! DEFINITION. The word types of the block (spec/00_scope.md R9; widths from 10_state.md and 30_encoding.md). -/

namespace Sys2Proof

/-- A host word: a command word, or the value of a host register (20_memory.md R60). -/
abbrev Word := BitVec 32

/-- A 16-bit device register value (10_state.md R41). -/
abbrev Half := BitVec 16

/-- A byte on the two-wire bus, and a device register address (10_state.md R41, 30_encoding.md R84). -/
abbrev Byte := BitVec 8

end Sys2Proof
end

