-- ==== Sys2Proof/Syntax.lean ====
section
/-! DEFINITION. The command set DCCAP-FA 1.0: one constructor per row of spec/opcode_table.json (30_encoding.md R83). -/

namespace Sys2Proof

/-- A decoded command with its operands as 30_encoding.md R82 reads them. -/
inductive Instr where
  /-- WRREG addr, value: write a 16-bit device register (41_register_protocol.md R121). -/
  | wrreg (addr : Byte) (value : Half)
  /-- RDREG addr: read a 16-bit device register (R122). -/
  | rdreg (addr : Byte)
  /-- RDRES ch: read one channel's 28-bit result; channels 4 to 255 encode and are turned away (R123, R120). -/
  | rdres (ch : Byte)
  /-- RDID: read the identity register (R124). -/
  | rdid
  /-- DEVRST: write the device's reset pattern (R125). -/
  | devrst
  /-- INIT: initialise the device (R126). -/
  | init
  /-- SETDUTY pct: set the PWM duty percent, a signed operand (45_actuation_commands.md R150). -/
  | setduty (pct : Int)
  /-- SETHZ hz: set the toggle frequency (R152). -/
  | sethz (hz : BitVec 24)
  deriving DecidableEq, Repr, Inhabited

end Sys2Proof
end

