-- ==== Sys2Proof/WellFormed.lean ====
section
/-! DEFINITION. The operand ranges of spec/30_encoding.md R92. Every operand but SETDUTY's is a bit field whose
type is its range; SETDUTY's percent is an integer, and has the range of a signed 16-bit field. -/

namespace Sys2Proof

/-- An operand inside the range for which R92 makes a word ("An operand out of its range is an assembly error"). -/
def Instr.wellFormed : Instr → Bool
  | .wrreg _ _ => true
  | .rdreg _ => true
  | .rdres _ => true
  | .rdid => true
  | .devrst => true
  | .init => true
  | .setduty pct => decide (-32768 ≤ pct) && decide (pct ≤ 32767)
  | .sethz _ => true

end Sys2Proof
end

