-- ==== Sys2Proof/Decode.lean ====
section
/-! DEFINITION. The command word: decode, encode and the opcode table's numbering (spec/30_encoding.md). -/

namespace Sys2Proof

/-- Field `OP`, bits 31:28 (R81). -/
def fieldOP (v : Word) : BitVec 4 := v.extractLsb' 28 4

/-- Field `Z`, bits 27:24 (R81). -/
def fieldZ (v : Word) : BitVec 4 := v.extractLsb' 24 4

/-- Field `A`, bits 23:16 (R81). -/
def fieldA (v : Word) : Byte := v.extractLsb' 16 8

/-- Field `D`, bits 15:0 (R81). -/
def fieldD (v : Word) : Half := v.extractLsb' 0 16

/-- Operand `H`, bits 23:0 (R81, R82). -/
def fieldH (v : Word) : BitVec 24 := v.extractLsb' 0 24

/-- Why a word is illegal (R87, R90). The block itself keeps no reason: every one of them sets ILL (R89). -/
inductive Illegal where
  /-- The opcode is 0x0, 0x7 or 0xA to 0xF (R90). -/
  | reservedOpcode (op : BitVec 4)
  /-- `Z` is not 0 (R87). -/
  | nonzeroZ
  /-- `A` is not 0 where it must be (R87). -/
  | nonzeroA
  /-- `D` is not 0 where it must be (R87). -/
  | nonzeroD
  deriving DecidableEq, Repr

/-- `i`, if the field `A` is 0. -/
def needZeroA (v : Word) (i : Except Illegal Instr) : Except Illegal Instr :=
  if fieldA v = 0 then i else .error .nonzeroA

/-- `i`, if the field `D` is 0. -/
def needZeroD (v : Word) (i : Except Illegal Instr) : Except Illegal Instr :=
  if fieldD v = 0 then i else .error .nonzeroD

/-- The decode function (R86), total on every 32-bit word. -/
def decode (v : Word) : Except Illegal Instr :=
  if fieldZ v = 0 then
    match (fieldOP v).toNat with
    | 0x1 => .ok (.wrreg (fieldA v) (fieldD v))
    | 0x2 => needZeroD v (.ok (.rdreg (fieldA v)))
    | 0x3 => needZeroD v (.ok (.rdres (fieldA v)))
    | 0x4 => needZeroA v (needZeroD v (.ok .rdid))
    | 0x5 => needZeroA v (needZeroD v (.ok .devrst))
    | 0x6 => needZeroA v (needZeroD v (.ok .init))
    | 0x8 => needZeroA v (.ok (.setduty (fieldD v).toInt))
    | 0x9 => .ok (.sethz (fieldH v))
    | _ => .error (.reservedOpcode (fieldOP v))
  else .error .nonzeroZ

/-- `OP ++ Z ++ A ++ D` with `Z = 0` (R81, formats AD, A, N and D). -/
def wordAD (op : BitVec 4) (a : Byte) (d : Half) : Word := op ++ (0#4) ++ a ++ d

/-- `OP ++ Z ++ H` with `Z = 0` (R81, format H24). -/
def wordH (op : BitVec 4) (h : BitVec 24) : Word := op ++ (0#4) ++ h

/-- The word of a command (R92). SETDUTY's percent is written modulo 2^16. -/
def encode : Instr → Word
  | .wrreg addr value => wordAD 0x1 addr value
  | .rdreg addr => wordAD 0x2 addr 0
  | .rdres ch => wordAD 0x3 ch 0
  | .rdid => wordAD 0x4 0 0
  | .devrst => wordAD 0x5 0 0
  | .init => wordAD 0x6 0 0
  | .setduty pct => wordAD 0x8 0 (BitVec.ofInt 16 pct)
  | .sethz hz => wordH 0x9 hz

/-- The assembler of R92: the word of a command whose operands are in range; otherwise "no word is made". -/
def assemble (i : Instr) : Option Word :=
  if i.wellFormed then some (encode i) else none

/-- The instruction the decoder reads from the low `nbits` bits of `w`, bits numbered as spec/opcode_table.json
numbers them (one 32-bit word, R91; host words have no byte order, 20_memory.md R64). -/
def decodeTableWord (nbits w : Nat) : Option Instr :=
  (decode (BitVec.ofNat 32 (w % 2 ^ nbits))).toOption

end Sys2Proof
end

