-- ==== Sys2Proof/Config.lean ====
section
/-! DEFINITION. What an implementation fixes (the parameters of spec/00_scope.md R6), the inputs from outside the
block (the agents' turns, the host's steps, the bus oracle's answers), and the opaque constants that stand for
every value the spec leaves open. -/

namespace Sys2Proof.Config

/-- One value for each of the four channels 0, 1, 2, 3 (00_scope.md R7 `NUM_CHANNELS`). -/
structure PerChannel (α : Type) where
  ch0 : α
  ch1 : α
  ch2 : α
  ch3 : α
  deriving DecidableEq, Repr, Inhabited

/-- The parameters of 00_scope.md R6, one field per row of its table (`P_CLKDIV_ADDR[ch]`, `P_CLKDIV_VAL[ch]` and
the like are two fields each). The spec gives none of them a value. -/
structure Params where
  /-- `P_DEV_ADDR`. No step reads it: every event goes to it (20_memory.md R60, R67). -/
  devAddr : BitVec 7
  /-- `P_MAX_RETRIES`, the attempts of one primitive in all (90_conflicts.md C9). -/
  maxRetries : Nat
  /-- `P_BUS_TIMEOUT`. No step reads it: it acts only through the oracle's `Fail` (20_memory.md R66). -/
  busTimeout : Nat
  /-- `P_RESULT_BASE`. -/
  resultBase : Byte
  /-- `P_ID_ADDR`. -/
  idAddr : Byte
  /-- `P_EXPECTED_ID`. -/
  expectedId : Half
  /-- `P_CONFIG_ADDR`. -/
  configAddr : Byte
  /-- `P_RESET_PATTERN`. -/
  resetPattern : Half
  /-- `P_CLKDIV_ADDR[ch]`. -/
  clkdivAddr : PerChannel Byte
  /-- `P_CLKDIV_VAL[ch]`. -/
  clkdivVal : PerChannel Half
  /-- `P_DRIVE_ADDR[ch]`. -/
  driveAddr : PerChannel Byte
  /-- `P_DRIVE_VAL[ch]`. -/
  driveVal : PerChannel Half
  /-- `P_SETTLE_ADDR[ch]`. -/
  settleAddr : PerChannel Byte
  /-- `P_SETTLE_VAL[ch]`. -/
  settleVal : PerChannel Half
  /-- `P_RCOUNT_ADDR[ch]`. -/
  rcountAddr : PerChannel Byte
  /-- `P_RCOUNT_VAL[ch]`. -/
  rcountVal : PerChannel Half
  /-- `P_MUX_ADDR`. -/
  muxAddr : Byte
  /-- `P_MUX_VAL`. -/
  muxVal : Half
  /-- `P_CONFIG_VAL`. -/
  configVal : Half
  /-- `P_STATUS_ADDR`. No command uses it (R6, 92_eei_decisions.md D42). -/
  statusAddr : Byte
  /-- `P_TICK_HZ`. -/
  tickHz : Nat
  /-- `P_TOGGLE_RELOAD_MAX`. -/
  toggleReloadMax : Nat
  /-- `P_RELOAD_OFFSET`, 0 or 1. -/
  reloadOffset : Nat
  /-- `P_PWM_PERIOD`. -/
  pwmPeriod : Nat
  /-- `P_RESET_TOGGLE_HZ`; 0 means the toggle timer is stopped at reset. -/
  resetToggleHz : BitVec 24
  deriving DecidableEq, Repr, Inhabited

/-- The constraint column of 00_scope.md R6. -/
abbrev Params.Valid (p : Params) : Prop :=
  1 ≤ p.maxRetries ∧ 1 ≤ p.busTimeout ∧ p.resultBase.toNat + 7 ≤ 0xFF ∧ 1000 ≤ p.tickHz ∧
  (1 ≤ p.toggleReloadMax ∧ p.toggleReloadMax ≤ 0xFFFFFFFF) ∧ p.reloadOffset ≤ 1 ∧
  (1 ≤ p.pwmPeriod ∧ p.pwmPeriod ≤ 0x7FFFFFFF)

/-- Any record of numbers, brought into the ranges of R6. It leaves a valid record as it is
(`Laws.Params.inRange_eq`), so its values are exactly the valid records. -/
def Params.inRange (p : Params) : Params :=
  { p with
    maxRetries := max 1 p.maxRetries
    busTimeout := max 1 p.busTimeout
    resultBase := if p.resultBase.toNat + 7 ≤ 0xFF then p.resultBase else 0
    tickHz := max 1000 p.tickHz
    toggleReloadMax := min (max 1 p.toggleReloadMax) 0xFFFFFFFF
    reloadOffset := min p.reloadOffset 1
    pwmPeriod := min (max 1 p.pwmPeriod) 0x7FFFFFFF }

/-- DESIGN CHOICE (log 2): the board's constants, of which nothing is known (00_scope.md R6, 92_eei_decisions.md
D43). -/
opaque board : Params

/-- The parameters the machine is built with: the unknown board's, inside R6's ranges. -/
def params : Params := board.inRange

/-- Whose step comes next: the agents of 00_scope.md R5, and the RESET step of 70_reset_and_hazards.md R220. -/
inductive Turn where
  | host
  | framer
  | tick
  | handler
  | loader
  | reset
  deriving DecidableEq, Repr, Inhabited

/-- The bus oracle's answer to one attempt (20_memory.md R66). A write attempt looks only at `Ok` or `Fail`; a read
attempt of two bytes also takes the bytes, in arrival order. -/
inductive BusAnswer where
  | fail
  | ok (b0 b1 : Byte)
  deriving DecidableEq, Repr, Inhabited

/-- One event of the bus history (20_memory.md R67). -/
inductive BusEvent where
  /-- `BW`: the bytes sent, and whether the answer was `Ok`. -/
  | bw (bytes : List Byte) (ok : Bool)
  /-- `BR`: the number of bytes asked, and the bytes of an `Ok` answer (`none` for `Fail`). -/
  | br (n : Nat) (data : Option (List Byte))
  deriving DecidableEq, Repr

/-- One step of the host's program (30_encoding.md R93, R94). `bytes` is the width of the access, 4 in R93's syntax;
20_memory.md R61 refuses every other. -/
inductive HostStep where
  /-- `WR off, v`: `MemWrite(off, bytes, v)`. -/
  | wr (off bytes : Nat) (v : Word)
  /-- `RD off -> name`: `name <- MemRead(off, bytes)`. -/
  | rd (off bytes : Nat) (name : String)
  /-- `WAITIDLE`: `loop: RD 0x04 -> s; if s[0] = 1 goto loop`. -/
  | waitIdle
  deriving DecidableEq, Repr, Inhabited

/-- DESIGN CHOICE (log 3): the turn taken at the `n`-th step where `State.env.turns` lists none: any agent's. -/
opaque freeTurn : Nat → Turn

/-- DESIGN CHOICE (log 6): the host's step at the `n`-th step where its program lists none: any access. -/
opaque freeHostStep : Nat → HostStep

/-- DESIGN CHOICE (log 5): the oracle's answer where `State.env.oracle` lists none: any, and it may depend on the
whole history (20_memory.md R66). -/
opaque busOracle : List BusEvent → BusAnswer

end Sys2Proof.Config
end

