-- ==== Sys2Proof/Machine/Arith.lean ====
section
/-! DEFINITION. The fixed constants (spec/00_scope.md R7), each named once, and the block's only arithmetic: delays
in ticks (R8), the compare value (45_actuation_commands.md R150), the reload value (R151), the 28-bit result
(30_encoding.md R85) and the wire byte order (20_memory.md R62). All of it is on unbounded numbers (R9). -/

namespace Sys2Proof.Machine

open Sys2Proof.Config

/-- `NUM_CHANNELS` (R7). -/
def numChannels : Nat := 4

/-- `HI_MASK` (R7): the significant bits of the high result register. -/
def hiMask : Half := 0xFFF

/-- `HI_SHIFT` (R7): the shift of the masked high half. -/
def hiShift : Nat := 16

/-- `RAW_WIDTH` (R7): the effective width of a RawResult. -/
def rawWidth : Nat := 28

/-- `BACKOFF_MS` (R7). -/
def backoffMs : Nat := 5

/-- `SETTLE_MS` (R7). -/
def settleMs : Nat := 10

/-- `DEAD_TIME_MS` (R7). -/
def deadTimeMs : Nat := 2

/-- `DUTY_MAX` (R7). -/
def dutyMax : Nat := 100

/-- `INIT_WRITES` (R7): the length of `initWrites`. -/
def initWritesCount : Nat := 18

/-- `ceil_div` (R9). -/
def ceilDiv (a b : Nat) : Nat := (a + b - 1) / b

/-- `clamp(v, lo, hi)` on natural numbers (R9). -/
def clampNat (v lo hi : Nat) : Nat := min (max v lo) hi

/-- `clamp(v, lo, hi)` on integers (R9). -/
def clampInt (v lo hi : Int) : Int := min (max v lo) hi

/-- `ms_ticks(m)` (R8). -/
def msTicks (p : Params) (m : Nat) : Nat := ceilDiv (m * p.tickHz) 1000

/-- `BACKOFF_TICKS` (R8). -/
def backoffTicks (p : Params) : Nat := msTicks p backoffMs

/-- `SETTLE_TICKS` (R8). -/
def settleTicks (p : Params) : Nat := msTicks p settleMs

/-- `DT_TICKS` (R8). -/
def dtTicks (p : Params) : Nat := msTicks p deadTimeMs

/-- The clamped duty percent `pc` (R150), 0..100. -/
def clampDuty (pct : Int) : Nat := (clampInt pct 0 dutyMax).toNat

/-- The compare value `cmp` of a clamped percent (R150); the division truncates. -/
def compareValue (p : Params) (pc : Nat) : Nat := min (pc * (p.pwmPeriod + 1) / 100) p.pwmPeriod

/-- `reload(hz)` for `hz >= 1` (R151); the division truncates. -/
def reload (p : Params) (hz : Nat) : Nat := clampNat (p.tickHz / (2 * hz)) 1 p.toggleReloadMax

/-- The byte sent first: `v[15:8]` (20_memory.md R62). -/
def hiByte (v : Half) : Byte := v.extractLsb' 8 8

/-- The byte sent second: `v[7:0]` (R62). -/
def loByte (v : Half) : Byte := v.extractLsb' 0 8

/-- The value of two bytes received in the order `b0, b1`: big-endian (R62). -/
def be16 (b0 b1 : Byte) : Half := b0 ++ b1

/-- `zext_32` of a 16-bit value (R9). -/
def zext32 (v : Half) : Word := v.zeroExtend 32

/-- `raw28(hi, lo)` in its 32-bit container (30_encoding.md R85). -/
def raw28 (hi lo : Half) : Word := ((zext32 (hi &&& hiMask)) <<< hiShift) ||| zext32 lo

/-- The four values of a `PerChannel`, channels in the order 0, 1, 2, 3. -/
def channelList {α : Type} (c : PerChannel α) : List α := [c.ch0, c.ch1, c.ch2, c.ch3]

end Sys2Proof.Machine
end

