-- ==== Sys2Proof/Machine/Groups.lean ====
section
/-! DEFINITION. The two disjoint groups of the block's state (spec/10_state.md R20): the framer group (R21 to R29)
and the actuation group (R30 to R37), and the values the RESET step gives each (70_reset_and_hazards.md R220). -/

namespace Sys2Proof.Machine

open Sys2Proof.Config

/-- The error codes of 60_exceptions.md R200. Codes 5 to 15 are never written. -/
inductive ErrCode where
  /-- Code 0. -/
  | none
  /-- Code 1, `BusError`. -/
  | busError
  /-- Code 2, `InvalidParam`. -/
  | invalidParam
  /-- Code 3, reserved: never written. -/
  | timeoutError
  /-- Code 4, reserved: never written. -/
  | unknown
  deriving DecidableEq, Repr

/-- `FR.WKIND` (R27). -/
inductive WaitKind where
  | none
  | backoff
  | settle
  deriving DecidableEq, Repr

/-- `HB_PHASE` (R36). -/
inductive Phase where
  /-- No toggle in progress. -/
  | idle
  /-- The handler has seen TOGGLE_PENDING = 1 and has not yet cleared it. -/
  | claim
  /-- Both outputs are low, and the handler waits out the dead time. -/
  | deadtime
  deriving DecidableEq, Repr

/-- A direction a guarded toggle drives: `A_FWD` or `B_FWD` (R34, `HB_TARGET` of R30). -/
inductive Direction where
  | aFwd
  | bFwd
  deriving DecidableEq, Repr

/-- The framer group (R21 to R29). `FR.PROG` is not stored: it is `prog(FR.OPC, FR.A, FR.D)` (R25). -/
structure Framer where
  /-- `FR.BUSY` (R21). -/
  busy : Bool
  /-- `FR.ERR` (R21, R23). -/
  err : ErrCode
  /-- `FR.OVR`, sticky (R24). -/
  ovr : Bool
  /-- `FR.ILL`, sticky (R24). -/
  ill : Bool
  /-- `FR.IDMM` (R21). -/
  idmm : Bool
  /-- `RESULT` (R22). -/
  result : Word
  /-- `FR.PC` (R25). -/
  pc : Nat
  /-- `FR.ATTEMPT` (R26). -/
  attempt : Nat
  /-- `FR.WKIND` (R27). -/
  wkind : WaitKind
  /-- `FR.WCNT` (R27). -/
  wcnt : Nat
  /-- `FR.WNEED` (R27). -/
  wneed : Nat
  /-- `FR.V0` (R28). -/
  v0 : Half
  /-- `FR.V1` (R28). -/
  v1 : Half
  /-- `FR.OPC` (R29). -/
  opc : BitVec 4
  /-- `FR.A` (R29). -/
  a : Byte
  /-- `FR.D` (R29). -/
  d : Half
  deriving DecidableEq, Repr

/-- The actuation group (R30 to R37). -/
structure Actuation where
  /-- `DUTY` (R31). -/
  duty : BitVec 7
  /-- `CCR_ACTIVE` (R32). -/
  ccrActive : Nat
  /-- `CCR_SHADOW` (R32). -/
  ccrShadow : Nat
  /-- `CCR_UPD` (R32). -/
  ccrUpd : Bool
  /-- `PWM_CNT` (R32). -/
  pwmCnt : Nat
  /-- `TOG_HZ` (R33). -/
  togHz : BitVec 24
  /-- `TOG_RELOAD` (R33). -/
  togReload : Nat
  /-- `TOG_CNT` (R33). -/
  togCnt : Nat
  /-- `TOG_RUN` (R33). -/
  togRun : Bool
  /-- `TOGGLE_PENDING` (R35). -/
  togglePending : Bool
  /-- `OUT_A` (R34). -/
  outA : Bool
  /-- `OUT_B` (R34). -/
  outB : Bool
  /-- `HB_PHASE` (R36). -/
  hbPhase : Phase
  /-- `HB_TARGET` (R36). -/
  hbTarget : Direction
  /-- `HB_DT` (R36). -/
  hbDt : Nat
  deriving DecidableEq, Repr

/-- The framer group after the RESET step (70_reset_and_hazards.md R220). -/
def Framer.atReset : Framer where
  busy := false
  err := .none
  ovr := false
  ill := false
  idmm := false
  result := 0
  pc := 0
  attempt := 1
  wkind := .none
  wcnt := 0
  wneed := 0
  v0 := 0
  v1 := 0
  opc := 0
  a := 0
  d := 0

/-- The actuation group after the RESET step (R220); the toggle timer by 10_state.md R33. -/
def Actuation.atReset (p : Params) : Actuation where
  duty := 0
  ccrActive := 0
  ccrShadow := 0
  ccrUpd := false
  pwmCnt := 0
  togHz := p.resetToggleHz
  togReload := if p.resetToggleHz = 0 then 0 else reload p p.resetToggleHz.toNat
  togCnt := 0
  togRun := !decide (p.resetToggleHz = 0)
  togglePending := false
  outA := false
  outB := false
  hbPhase := .idle
  hbTarget := .aFwd
  hbDt := 0

end Sys2Proof.Machine
end

