-- ==== Sys2Proof/Machine/Operands.lean ====
section
/-! DEFINITION. Operand forms: the opcodes a framer command latches (spec/30_encoding.md R83), the channel operand
and the addresses made from it (10_state.md R41), and the bus frames (30_encoding.md R84). -/

namespace Sys2Proof.Machine

open Sys2Proof.Config

/-- Opcode of WRREG (R83). -/
def opWRREG : BitVec 4 := 0x1

/-- Opcode of RDREG (R83). -/
def opRDREG : BitVec 4 := 0x2

/-- Opcode of RDRES (R83). -/
def opRDRES : BitVec 4 := 0x3

/-- Opcode of RDID (R83). -/
def opRDID : BitVec 4 := 0x4

/-- Opcode of DEVRST (R83). -/
def opDEVRST : BitVec 4 := 0x5

/-- Opcode of INIT (R83). -/
def opINIT : BitVec 4 := 0x6

/-- A channel operand of RDRES that names a channel, 0 to 3 (41_register_protocol.md R120). -/
def channelValid (ch : Byte) : Bool := decide (ch.toNat < numChannels)

/-- The address of a channel's high result register, `P_RESULT_BASE + 2*ch` (10_state.md R41). For a channel 0 to 3
the sum stays below 0x100 (20_memory.md R65). -/
def resultHighAddr (p : Params) (ch : Byte) : Byte := p.resultBase + 2 * ch

/-- The address of a channel's low result register, `P_RESULT_BASE + 2*ch + 1` (10_state.md R41). -/
def resultLowAddr (p : Params) (ch : Byte) : Byte := p.resultBase + 2 * ch + 1

/-- The register write frame `[addr, value[15:8], value[7:0]]` (30_encoding.md R84). -/
def writeFrame (addr : Byte) (value : Half) : List Byte := [addr, hiByte value, loByte value]

/-- The pointer set frame `[addr]` (R84). -/
def pointerFrame (addr : Byte) : List Byte := [addr]

end Sys2Proof.Machine
end

