-- ==== Sys2Proof/Machine/Program.lean ====
section
/-! DEFINITION. Micro-operations and the program of each framer command (spec/40_bus_transport.md R101). -/

namespace Sys2Proof.Machine

open Sys2Proof.Config

/-- The receive latch an `RX` names: `FR.V0` or `FR.V1` (10_state.md R28). -/
inductive Latch where
  | v0
  | v1
  deriving DecidableEq, Repr

/-- What a `FIN` writes to RESULT (R107). -/
inductive FinKind where
  | none
  | v16
  | raw
  deriving DecidableEq, Repr

/-- A micro-operation (R101). -/
inductive MicroOp where
  /-- `TX(bytes)`: the transmit primitive (R102). -/
  | tx (bytes : List Byte)
  /-- `RX(Vk)`: the receive primitive of two bytes (R103). -/
  | rx (k : Latch)
  /-- INIT's identity comparison (41_register_protocol.md R131). -/
  | idchk
  /-- INIT's settle delay (R108). -/
  | waitSettle
  /-- The successful end (R107). -/
  | fin (kind : FinKind)
  deriving DecidableEq, Repr

/-- `W(addr, val)`: `TX([addr, val[15:8], val[7:0]])` (R101). -/
def writeOp (addr : Byte) (value : Half) : MicroOp := .tx (writeFrame addr value)

/-- `TX([addr]), RX(Vk)`: the two phases of a register read (R101, 41_register_protocol.md R122). -/
def readOps (addr : Byte) (k : Latch) : List MicroOp := [.tx (pointerFrame addr), .rx k]

/-- The address and value pairs of INIT's writes, in order (41_register_protocol.md R127). -/
def initWrites (p : Params) : List (Byte × Half) :=
  List.zip (channelList p.clkdivAddr) (channelList p.clkdivVal) ++
  List.zip (channelList p.driveAddr) (channelList p.driveVal) ++
  List.zip (channelList p.settleAddr) (channelList p.settleVal) ++
  List.zip (channelList p.rcountAddr) (channelList p.rcountVal) ++
  [(p.muxAddr, p.muxVal), (p.configAddr, p.configVal)]

/-- INIT's program: 23 entries (R101). -/
def initProg (p : Params) : List MicroOp :=
  readOps p.idAddr .v0 ++ [.idchk] ++ (initWrites p).map (fun w => writeOp w.1 w.2) ++ [.waitSettle, .fin .none]

/-- RDRES's program for a channel 0 to 3 (R101). -/
def rdresProg (p : Params) (ch : Byte) : List MicroOp :=
  readOps (resultHighAddr p ch) .v0 ++ readOps (resultLowAddr p ch) .v1 ++ [.fin .raw]

/-- `prog(op, a, d)` (R101). Where R101 gives no program (an opcode that is no framer command's, RDRES of a channel
above 3, neither of which acceptance lets in) it is empty (log 10). -/
def prog (p : Params) (opc : BitVec 4) (a : Byte) (d : Half) : List MicroOp :=
  match opc.toNat with
  | 0x1 => [writeOp a d, .fin .none]
  | 0x2 => readOps a .v0 ++ [.fin .v16]
  | 0x3 => if channelValid a then rdresProg p a else []
  | 0x4 => readOps p.idAddr .v0 ++ [.fin .v16]
  | 0x5 => [writeOp p.configAddr p.resetPattern, .fin .none]
  | 0x6 => initProg p
  | _ => []

/-- `FR.PROG` (10_state.md R25). -/
def Framer.program (p : Params) (f : Framer) : List MicroOp := prog p f.opc f.a f.d

/-- `FR.PROG[FR.PC]`, if `FR.PC` is inside the program. -/
def Framer.current (p : Params) (f : Framer) : Option MicroOp := (f.program p)[f.pc]?

end Sys2Proof.Machine
end

