-- ==== Sys2Proof/Machine/State.lean ====
section
/-! DEFINITION. The machine's state as plain data: the framer group and the actuation group of spec/10_state.md,
which no step mixes (R20), the bus history (20_memory.md R67), and the model's own record of the outside world. -/

namespace Sys2Proof.Machine

open Sys2Proof.Config

/-- What a host read returned under the name its program gave it (30_encoding.md R93). The model's own. -/
structure HostRead where
  name : String
  value : Word
  deriving DecidableEq, Repr

/-- The outside world's inputs still to come. The model's own: DESIGN CHOICE (logs 3, 5, 6). -/
structure Env where
  /-- The host's program: the steps it has still to issue, in order (20_memory.md R71). -/
  hostProg : List HostStep
  /-- Whose turn is next, and after it (00_scope.md R5); `Config.freeTurn` where it lists none. -/
  turns : List Turn
  /-- The oracle's next answers (20_memory.md R66); `Config.busOracle` where it lists none. -/
  oracle : List BusAnswer
  /-- How many turns have been taken: the index of the free values. -/
  turnNo : Nat
  deriving DecidableEq, Repr

/-- The machine. -/
structure State where
  /-- The implementation's parameters (00_scope.md R6). No step changes them. -/
  params : Params
  /-- The framer group. -/
  fr : Framer
  /-- The actuation group. -/
  act : Actuation
  /-- The bus event history, oldest first (20_memory.md R67). -/
  busHist : List BusEvent
  /-- What the host has read, oldest first (the model's own, log 7). -/
  hostReads : List HostRead
  /-- The inputs still to come (the model's own). -/
  env : Env
  deriving DecidableEq, Repr

/-- The machine's one fault. The block itself traps nothing (60_exceptions.md R204). -/
inductive Fault where
  /-- Raised by the framer's turn where `FR.BUSY = 1`, no wait runs and `FR.PC` is past the program's end: a state
  10_state.md R25 excludes and no step from reset reaches. Safe: the machine stops (log 8). -/
  | framerOffProgram
  deriving DecidableEq, Repr

/-- What the model gives no meaning. -/
inductive Refusal where
  /-- Raised by `exec` for an instruction that has no meaning yet. Safe. -/
  | notModelled (mnemonic : String)
  /-- Raised by a host access of `bytes` bytes, not 4: "refused" (20_memory.md R61). Safe. -/
  | hostWidth (bytes : Nat)
  /-- Raised by a host access at an offset that is no register's: unaligned, or outside 0x00 to 0x1C: "refused"
  (R61). Safe. -/
  | hostOffset (off : Nat)
  deriving DecidableEq, Repr

/-- The machine at power-on with parameters `p`: both groups as RESET leaves them, nothing on the bus yet, and no
input from outside listed (DESIGN CHOICE, log 18). -/
def State.powerOn (p : Params) : State where
  params := p
  fr := Framer.atReset
  act := Actuation.atReset p
  busHist := []
  hostReads := []
  env := { hostProg := [], turns := [], oracle := [], turnNo := 0 }

/-- The machine right after reset, with the unknown board's parameters (00_scope.md R6). -/
def State.reset : State := State.powerOn Config.params

/-! ### Updates. Each has its simp lemmas in Laws/State.lean. -/

/-- The framer group replaced. -/
def State.withFr (s : State) (f : Framer) : State := { s with fr := f }

/-- The actuation group replaced. -/
def State.withAct (s : State) (g : Actuation) : State := { s with act := g }

/-- The inputs still to come replaced. -/
def State.withEnv (s : State) (e : Env) : State := { s with env := e }

/-- One event appended to the bus history (20_memory.md R67). -/
def State.logBus (s : State) (e : BusEvent) : State := { s with busHist := s.busHist ++ [e] }

/-- One value the host has read. -/
def State.logRead (s : State) (r : HostRead) : State := { s with hostReads := s.hostReads ++ [r] }

end Sys2Proof.Machine
end

