-- ==== Sys2Proof/Machine/Ops.lean ====
section
/-! DEFINITION. The shared operations: how an error ends a command (the block traps nothing, spec/60_exceptions.md
R204), acceptance of a framer command (41_register_protocol.md R120), a failed attempt (40_bus_transport.md R104,
R106), bus attempts (20_memory.md R66, R67), and taking the next input from outside. -/

namespace Sys2Proof.Machine

open Sys2Proof.Config

/-! ### Errors -/

/-- `raise E` (00_scope.md R10, 40_bus_transport.md R106): the command ends at once, the rest of its program is
discarded, and RESULT is not written. Nothing is saved, no mode changes and no vector is taken (60_exceptions.md
R204). -/
def Framer.raise (f : Framer) (e : ErrCode) : Framer :=
  { f with err := e, busy := false, attempt := 1, wkind := .none }

/-- A framer command written while the framer is busy (30_encoding.md R88). -/
def Framer.overrun (f : Framer) : Framer := { f with ovr := true }

/-- An illegal command word (30_encoding.md R89). -/
def Framer.illegal (f : Framer) : Framer := { f with ill := true }

/-! ### Acceptance -/

/-- The latching part of `accept(op, a, d)` (41_register_protocol.md R120). -/
def Framer.start (f : Framer) (opc : BitVec 4) (a : Byte) (d : Half) : Framer :=
  { f with
    opc := opc
    a := a
    d := d
    pc := 0
    attempt := 1
    wkind := .none
    wcnt := 0
    wneed := 0
    err := .none
    idmm := if opc = opINIT then false else f.idmm
    busy := true }

/-- `accept(op, a, d)` (R120): an RDRES of no channel gets INVALID_PARAM and does not start. -/
def Framer.accept (f : Framer) (opc : BitVec 4) (a : Byte) (d : Half) : Framer :=
  if opc = opRDRES ∧ channelValid a = false then { f with err := .invalidParam }
  else f.start opc a d

/-- A framer command's CMD write (30_encoding.md R80): dropped while busy (R88), else accepted. -/
def issueFramer (opc : BitVec 4) (a : Byte) (d : Half) (s : State) : State :=
  s.withFr (if s.fr.busy then s.fr.overrun else s.fr.accept opc a d)

/-! ### The sequencer's moves on the framer group -/

/-- A micro-operation has completed: the next one, at its first attempt (40_bus_transport.md R102, R103). -/
def Framer.advance (f : Framer) : Framer := { f with pc := f.pc + 1, attempt := 1 }

/-- A wait of `need` ticks begins (R104, R108). -/
def Framer.startWait (f : Framer) (k : WaitKind) (need : Nat) : Framer :=
  { f with wkind := k, wneed := need, wcnt := 0 }

/-- `failed_attempt()`: a backoff while attempts are left (R104), else `raise BusError` (R106). The final attempt is
the one numbered `P_MAX_RETRIES`; a number above it, which no run reaches, counts as final too (log 9). -/
def Framer.failedAttempt (p : Params) (f : Framer) : Framer :=
  if f.attempt < p.maxRetries then f.startWait .backoff (backoffTicks p) else f.raise .busError

/-- The receive latch `FR.Vk` written (R103). -/
def Framer.latch (f : Framer) (k : Latch) (v : Half) : Framer :=
  match k with
  | .v0 => { f with v0 := v }
  | .v1 => { f with v1 := v }

/-- The wait-end step's effect (R105). -/
def Framer.endWait (f : Framer) : Framer :=
  match f.wkind with
  | .backoff => { f with attempt := f.attempt + 1, wkind := .none, wcnt := 0, wneed := 0 }
  | .settle => { f with pc := f.pc + 1, wkind := .none, wcnt := 0, wneed := 0 }
  | .none => { f with wkind := .none, wcnt := 0, wneed := 0 }

/-- RESULT after `FIN(kind)` (R107). -/
def Framer.finResult (f : Framer) (kind : FinKind) : Word :=
  match kind with
  | .none => f.result
  | .v16 => zext32 f.v0
  | .raw => raw28 f.v0 f.v1

/-- The FIN step's effect (R107). -/
def Framer.finish (f : Framer) (kind : FinKind) : Framer :=
  { f with result := f.finResult kind, err := .none, busy := false }

/-- The IDCHK step's effect (41_register_protocol.md R131). -/
def Framer.checkId (p : Params) (f : Framer) : Framer :=
  { f with result := zext32 f.v0, idmm := !decide (f.v0 = p.expectedId), pc := f.pc + 1 }

/-- The framer's part of a tick (46_actuation_engine.md R170). -/
def Framer.tick (f : Framer) : Framer :=
  if f.wkind = .none then f else { f with wcnt := min (f.wcnt + 1) f.wneed }

/-! ### Inputs from outside -/

/-- Whose turn it is: the next listed one, else the free value of this step (log 3). -/
def State.nextTurn (s : State) : Turn :=
  match s.env.turns with
  | t :: _ => t
  | [] => freeTurn s.env.turnNo

/-- The state once that turn has been taken off the schedule. -/
def State.afterTurn (s : State) : State :=
  s.withEnv { s.env with turns := s.env.turns.tail, turnNo := s.env.turnNo + 1 }

/-- The host's next step: the next one of its program, else the free value of this step (log 6). -/
def State.nextHostStep (s : State) : HostStep :=
  match s.env.hostProg with
  | h :: _ => h
  | [] => freeHostStep s.env.turnNo

/-- The state once that step has been taken off the program. -/
def State.afterHostStep (s : State) : State :=
  s.withEnv { s.env with hostProg := s.env.hostProg.tail }

/-- The host stays at step `h`: it is put back in front of the program. -/
def State.repeatHostStep (s : State) (h : HostStep) : State :=
  s.withEnv { s.env with hostProg := h :: s.env.hostProg }

/-- The oracle's next answer: the next listed one, else the free value for the whole history (log 5). -/
def State.nextAnswer (s : State) : BusAnswer :=
  match s.env.oracle with
  | b :: _ => b
  | [] => busOracle s.busHist

/-- The state once that answer has been used. -/
def State.afterAnswer (s : State) : State :=
  s.withEnv { s.env with oracle := s.env.oracle.tail }

/-! ### Bus attempts -/

/-- Whether an answer is `Ok` (20_memory.md R66). -/
def answerOk : BusAnswer → Bool
  | .fail => false
  | .ok _ _ => true

/-- The bytes of a read answer, if it is `Ok` (R66). -/
def answerBytes : BusAnswer → Option (List Byte)
  | .fail => none
  | .ok b0 b1 => some [b0, b1]

/-- `BusWrite(P_DEV_ADDR, bytes)`: the state after the attempt, its event appended (R67). The answer is
`s.nextAnswer`. -/
def State.busWrite (s : State) (bytes : List Byte) : State :=
  s.afterAnswer.logBus (.bw bytes (answerOk s.nextAnswer))

/-- `BusRead(P_DEV_ADDR, 2)`: the state after the attempt, its event appended (R67). The answer is `s.nextAnswer`. -/
def State.busRead (s : State) : State :=
  s.afterAnswer.logBus (.br 2 (answerBytes s.nextAnswer))

end Sys2Proof.Machine
end

