-- ==== Sys2Proof/Machine/RegisterProtocol.lean ====
section
/-! DEFINITION. The framer commands: what the CMD write of each does (spec/41_register_protocol.md R120 to R126). Its
bus traffic is then the framer's turns over its program (Machine/Program.lean, Machine/Sequencer.lean). -/

namespace Sys2Proof.Machine

/-- WRREG (R121). -/
def execWrreg (addr : Byte) (value : Half) (s : State) : Host.Outcome State Fault Refusal :=
  .next (issueFramer opWRREG addr value s)

/-- RDREG (R122). -/
def execRdreg (addr : Byte) (s : State) : Host.Outcome State Fault Refusal :=
  .next (issueFramer opRDREG addr 0 s)

/-- RDRES (R123). -/
def execRdres (ch : Byte) (s : State) : Host.Outcome State Fault Refusal :=
  .next (issueFramer opRDRES ch 0 s)

/-- RDID (R124). -/
def execRdid (s : State) : Host.Outcome State Fault Refusal :=
  .next (issueFramer opRDID 0 0 s)

/-- DEVRST (R125). -/
def execDevrst (s : State) : Host.Outcome State Fault Refusal :=
  .next (issueFramer opDEVRST 0 0 s)

/-- INIT (R126). -/
def execInit (s : State) : Host.Outcome State Fault Refusal :=
  .next (issueFramer opINIT 0 0 s)

end Sys2Proof.Machine
end

