-- ==== Sys2Proof/Machine/Setters.lean ====
section
/-! DEFINITION. The actuation commands, each whole inside the CMD write, whether or not the framer is busy
(spec/45_actuation_commands.md R150 to R152). -/

namespace Sys2Proof.Machine

open Sys2Proof.Config

/-- SETDUTY's effect on the actuation group (R150). -/
def Actuation.setDuty (p : Params) (g : Actuation) (pct : Int) : Actuation :=
  { g with
    duty := BitVec.ofNat 7 (clampDuty pct)
    ccrShadow := compareValue p (clampDuty pct)
    ccrUpd := true }

/-- SETHZ's effect on the actuation group (R152): stop, apply, reset the counter, restart, in one step; 0 keeps all. -/
def Actuation.setHz (p : Params) (g : Actuation) (hz : BitVec 24) : Actuation :=
  if hz = 0 then g
  else { g with togRun := true, togReload := reload p hz.toNat, togCnt := 0, togHz := hz }

/-- SETDUTY (R150). -/
def execSetduty (pct : Int) (s : State) : Host.Outcome State Fault Refusal :=
  .next (s.withAct (s.act.setDuty s.params pct))

/-- SETHZ (R152). -/
def execSethz (hz : BitVec 24) (s : State) : Host.Outcome State Fault Refusal :=
  .next (s.withAct (s.act.setHz s.params hz))

end Sys2Proof.Machine
end

