-- ==== Sys2Proof/Machine/Dispatch.lean ====
section
/-! DEFINITION. The meaning of each command: what the CMD write that carries its word does (spec/30_encoding.md R80). -/

namespace Sys2Proof.Machine

def exec (i : Instr) (s : State) : Host.Outcome State Fault Refusal :=
  match i with
  | .wrreg addr value => Sys2Proof.Machine.execWrreg addr value s
  | .rdreg addr => Sys2Proof.Machine.execRdreg addr s
  | .rdres ch => Sys2Proof.Machine.execRdres ch s
  | .rdid => Sys2Proof.Machine.execRdid s
  | .devrst => Sys2Proof.Machine.execDevrst s
  | .init => Sys2Proof.Machine.execInit s
  | .setduty pct => Sys2Proof.Machine.execSetduty pct s
  | .sethz hz => Sys2Proof.Machine.execSethz hz s

end Sys2Proof.Machine
end

