-- ==== Sys2Proof/Machine/Flags.lean ====
section
/-! DEFINITION. The status words the host reads and the values computed for them: OUT_PWM, the direction and the
three-state view (spec/10_state.md R21, R32, R34, R37 to R40). -/

namespace Sys2Proof.Machine

open Sys2Proof.Config

/-- The code of an error (60_exceptions.md R200), as FR_STATUS bits 7:4 show it. -/
def ErrCode.code : ErrCode → BitVec 4
  | .none => 0
  | .busError => 1
  | .invalidParam => 2
  | .timeoutError => 3
  | .unknown => 4

/-- `HB_PHASE` as ACT_STATUS bits 5:4 show it (10_state.md R38). -/
def Phase.code : Phase → BitVec 2
  | .idle => 0
  | .claim => 1
  | .deadtime => 2

/-- `dir(OUT_A, OUT_B)` (R34): `none` is the spec's `NONE`. -/
def dirOf : Bool → Bool → Option Direction
  | true, false => some .aFwd
  | false, true => some .bFwd
  | false, false => none
  | true, true => none

/-- `DIR` as ACT_STATUS bits 7:6 show it (R38). -/
def dirCode : Option Direction → BitVec 2
  | none => 0
  | some .aFwd => 1
  | some .bFwd => 2

/-- The next target of a guarded toggle, from the outputs (R34, last column). -/
def nextTarget (outA outB : Bool) : Direction :=
  match dirOf outA outB with
  | some .aFwd => .bFwd
  | some .bFwd => .aFwd
  | none => .aFwd

/-- `OUT_PWM` (R32). -/
def Actuation.outPwm (g : Actuation) : Bool := decide (g.pwmCnt < g.ccrActive)

/-- The source's three states as a view (R37). -/
inductive View where
  | idle
  | toggleRequested
  | toggling
  deriving DecidableEq, Repr

/-- The view of a state (R37): TOGGLE_PENDING comes first. -/
def Actuation.view (g : Actuation) : View :=
  if g.togglePending then .toggleRequested
  else if g.hbPhase = .idle then .idle
  else .toggling

/-- `VIEW` as ACT_STATUS bits 25:24 show it (R38). -/
def View.code : View → BitVec 2
  | .idle => 0
  | .toggleRequested => 1
  | .toggling => 2

/-- One bit of a status word. -/
def bit (b : Bool) : BitVec 1 := BitVec.ofBool b

/-- FR_STATUS (R21), bits 31 down to 0. -/
def Framer.statusWord (f : Framer) : Word :=
  (0#21) ++ bit f.idmm ++ bit f.ill ++ bit f.ovr ++ f.err.code ++ (0#3) ++ bit f.busy

/-- ACT_STATUS (R38), bits 31 down to 0. -/
def Actuation.statusWord (g : Actuation) : Word :=
  (0#6) ++ g.view.code ++ (0#1) ++ g.duty ++ (0#7) ++ bit g.outPwm ++ dirCode (dirOf g.outA g.outB) ++
    g.hbPhase.code ++ bit g.togRun ++ bit g.togglePending ++ bit g.outB ++ bit g.outA

/-- TOGGLE_HZ (R39). -/
def Actuation.toggleHzWord (g : Actuation) : Word := (0#8) ++ g.togHz

/-- TOGGLE_RELOAD (R39). -/
def Actuation.toggleReloadWord (g : Actuation) : Word := BitVec.ofNat 32 g.togReload

/-- PWM_CCR (R39). -/
def Actuation.pwmCcrWord (g : Actuation) : Word := BitVec.ofNat 32 g.ccrActive

/-- PWM_CCR_NEXT (R39). -/
def Actuation.pwmCcrNextWord (g : Actuation) : Word := bit g.ccrUpd ++ BitVec.ofNat 31 g.ccrShadow

/-- The host register map, for reads (R40, 20_memory.md R61): the word at a byte offset, or `none` where no register
stands. -/
def hostRegister (s : State) (off : Nat) : Option Word :=
  match off with
  | 0x00 => some 0
  | 0x04 => some s.fr.statusWord
  | 0x08 => some s.fr.result
  | 0x0C => some s.act.statusWord
  | 0x10 => some s.act.toggleHzWord
  | 0x14 => some s.act.toggleReloadWord
  | 0x18 => some s.act.pwmCcrWord
  | 0x1C => some s.act.pwmCcrNextWord
  | _ => none

end Sys2Proof.Machine
end

