-- ==== Sys2Proof/Machine/Engine.lean ====
section
/-! DEFINITION. The steps the block takes by itself: the tick, the toggle handler, the compare loader
(spec/46_actuation_engine.md) and the RESET step (70_reset_and_hazards.md R220). -/

namespace Sys2Proof.Machine

open Sys2Proof.Config

/-- The toggle timer's part of a tick (R170, R171). -/
def Actuation.tickToggle (p : Params) (g : Actuation) : Actuation :=
  if g.togRun then
    if g.togReload + p.reloadOffset ≤ g.togCnt + 1 then { g with togCnt := 0, togglePending := true }
    else { g with togCnt := g.togCnt + 1 }
  else g

/-- CCR_SHADOW moved into effect, if it is waiting (R180, R181). -/
def Actuation.load (g : Actuation) : Actuation :=
  if g.ccrUpd then { g with ccrActive := g.ccrShadow, ccrUpd := false } else g

/-- The PWM timer's part of a tick, with the forced load at the wrap (R170, R181). -/
def Actuation.tickPwm (p : Params) (g : Actuation) : Actuation :=
  if g.pwmCnt = p.pwmPeriod then ({ g with pwmCnt := 0 } : Actuation).load
  else { g with pwmCnt := g.pwmCnt + 1 }

/-- The dead time's part of a tick (R170). -/
def Actuation.tickDead (p : Params) (g : Actuation) : Actuation :=
  if g.hbPhase = .deadtime then { g with hbDt := min (g.hbDt + 1) (dtTicks p) } else g

/-- The actuation group's part of a tick (R170). -/
def Actuation.tick (p : Params) (g : Actuation) : Actuation :=
  ((g.tickToggle p).tickPwm p).tickDead p

/-- Tick step (R170): every time-driven element at once. -/
def tickStep (s : State) : State := (s.withFr s.fr.tick).withAct (s.act.tick s.params)

/-- The outputs driven in a direction, both in one step (10_state.md R34). -/
def Actuation.drive (g : Actuation) (t : Direction) : Actuation :=
  match t with
  | .aFwd => { g with outA := true, outB := false }
  | .bFwd => { g with outA := false, outB := true }

/-- Handler claim step (R174). -/
def Actuation.claimStep (g : Actuation) : Actuation := { g with hbPhase := .claim }

/-- Handler consume step (R175): clear, latch the target, drive low. -/
def Actuation.consumeStep (g : Actuation) : Actuation :=
  { g with
    togglePending := false
    hbTarget := nextTarget g.outA g.outB
    outA := false
    outB := false
    hbDt := 0
    hbPhase := .deadtime }

/-- Handler drive step (R176): end of the dead time. -/
def Actuation.driveStep (g : Actuation) : Actuation := { g.drive g.hbTarget with hbPhase := .idle }

/-- The toggle handler's turn: the one of its steps that is enabled, if any (R174 to R176). -/
def Actuation.handler (p : Params) (g : Actuation) : Actuation :=
  match g.hbPhase with
  | .idle => if g.togglePending then g.claimStep else g
  | .claim => g.consumeStep
  | .deadtime => if dtTicks p ≤ g.hbDt then g.driveStep else g

/-- The toggle handler's turn on the machine. -/
def handlerStep (s : State) : State := s.withAct (s.act.handler s.params)

/-- The compare loader's turn (R180). -/
def loaderStep (s : State) : State := s.withAct s.act.load

/-- The RESET step (70_reset_and_hazards.md R220): every state element at its reset value, whatever runs (R222). It
sends nothing, and keeps the bus history, which is no state of the block (R221), and the outside world. -/
def resetStep (s : State) : State := (s.withFr Framer.atReset).withAct (Actuation.atReset s.params)

end Sys2Proof.Machine
end

