-- ==== Sys2Proof/Machine/Sequencer.lean ====
section
/-! DEFINITION. The framer's turn: the steps of a running command (spec/40_bus_transport.md R102 to R110,
41_register_protocol.md R131). -/

namespace Sys2Proof.Machine

open Sys2Proof.Config

/-- TX step: one transmit attempt (R102). -/
def txStep (bytes : List Byte) (s : State) : State :=
  (s.busWrite bytes).withFr
    (match s.nextAnswer with
      | .ok _ _ => s.fr.advance
      | .fail => s.fr.failedAttempt s.params)

/-- RX step: one receive attempt of two bytes (R103). -/
def rxStep (k : Latch) (s : State) : State :=
  s.busRead.withFr
    (match s.nextAnswer with
      | .ok b0 b1 => (s.fr.latch k (be16 b0 b1)).advance
      | .fail => s.fr.failedAttempt s.params)

/-- IDCHK step (41_register_protocol.md R131). -/
def idchkStep (s : State) : State := s.withFr (s.fr.checkId s.params)

/-- WAITSETTLE step: the settle delay begins (R108). -/
def waitSettleStep (s : State) : State := s.withFr (s.fr.startWait .settle (settleTicks s.params))

/-- FIN step (R107). -/
def finStep (kind : FinKind) (s : State) : State := s.withFr (s.fr.finish kind)

/-- The step of one micro-operation. -/
def microStep (m : MicroOp) (s : State) : State :=
  match m with
  | .tx bytes => txStep bytes s
  | .rx k => rxStep k s
  | .idchk => idchkStep s
  | .waitSettle => waitSettleStep s
  | .fin kind => finStep kind s

/-- Wait-end step, where it is enabled (R105); else the framer waits on. -/
def waitStep (s : State) : State :=
  if s.fr.wneed ≤ s.fr.wcnt then s.withFr s.fr.endWait else s

/-- The framer's turn (R110): no step while BUSY = 0; a wait in progress ends once its ticks have passed; otherwise the
micro-operation at FR.PC runs. -/
def framerTurn (s : State) : Host.Outcome State Fault Refusal :=
  if s.fr.busy = false then .next s
  else if s.fr.wkind ≠ .none then .next (waitStep s)
  else
    match s.fr.current s.params with
    | some m => .next (microStep m s)
    | none => .fault .framerOffProgram

end Sys2Proof.Machine
end

