-- ==== Sys2Proof/Machine/HostAccess.lean ====
section
/-! DEFINITION. The host's turn: its reads and writes of the host registers (spec/20_memory.md R61), the CMD write that
issues a command word (30_encoding.md R80), and WAITIDLE (R94). -/

namespace Sys2Proof.Machine

open Sys2Proof.Config

/-- A CMD write (30_encoding.md R80): an illegal word sets ILL and nothing else (R89); a command runs its meaning. -/
def issueWord (v : Word) (s : State) : Host.Outcome State Fault Refusal :=
  match decode v with
  | .error _ => .next (s.withFr s.fr.illegal)
  | .ok i => exec i s

/-- `MemWrite(off, bytes, v)` (20_memory.md R61): offset 0 issues a command word, the other registers are read-only,
and every other access is refused. -/
def memWrite (off bytes : Nat) (v : Word) (s : State) : Host.Outcome State Fault Refusal :=
  if bytes = 4 then
    if off = 0x00 then issueWord v s
    else
      match hostRegister s off with
      | some _ => .next s
      | none => .refused (.hostOffset off)
  else .refused (.hostWidth bytes)

/-- `name <- MemRead(off, bytes)` (R61; 30_encoding.md R93): no side effect on the block. -/
def memRead (off bytes : Nat) (name : String) (s : State) : Host.Outcome State Fault Refusal :=
  if bytes = 4 then
    match hostRegister s off with
    | some v => .next (s.logRead ⟨name, v⟩)
    | none => .refused (.hostOffset off)
  else .refused (.hostWidth bytes)

/-- One round of WAITIDLE's loop (30_encoding.md R94): read FR_STATUS, and stay at WAITIDLE while bit 0 is 1. -/
def waitIdleStep (s : State) : State :=
  if s.fr.statusWord.getLsbD 0 then (s.logRead ⟨"s", s.fr.statusWord⟩).repeatHostStep .waitIdle
  else s.logRead ⟨"s", s.fr.statusWord⟩

/-- One step of the host's program. -/
def runHostStep (h : HostStep) (s : State) : Host.Outcome State Fault Refusal :=
  match h with
  | .wr off bytes v => memWrite off bytes v s
  | .rd off bytes name => memRead off bytes name s
  | .waitIdle => .next (waitIdleStep s)

/-- The host's turn: its next step, taken off its program (20_memory.md R71). -/
def hostTurn (s : State) : Host.Outcome State Fault Refusal := runHostStep s.nextHostStep s.afterHostStep

/-- The turn of one agent. An agent none of whose steps is enabled changes nothing (log 4). -/
def runTurn (t : Turn) (s : State) : Host.Outcome State Fault Refusal :=
  match t with
  | .host => hostTurn s
  | .framer => framerTurn s
  | .tick => .next (tickStep s)
  | .handler => .next (handlerStep s)
  | .loader => .next (loaderStep s)
  | .reset => .next (resetStep s)

/-- The host program step that writes one word to CMD. -/
def cmdWord (nbits w : Nat) : HostStep := .wr 0x00 4 (BitVec.ofNat 32 (w % 2 ^ nbits))

end Sys2Proof.Machine
end

