-- ==== Sys2Proof/Machine/Step.lean ====
section
/-! DEFINITION. One step of the machine: one atomic step of one agent (spec/00_scope.md R5, 20_memory.md R71). -/

namespace Sys2Proof.Machine

/-- One step: the next turn is taken off the schedule and its agent moves. -/
def step (s : State) : Host.Outcome State Fault Refusal := runTurn s.nextTurn s.afterTurn

/-- `s` with a command word as the very next thing to happen: the next turn is the host's, and the next step of its
program is the CMD write of that word (log 6). -/
def State.withFetchWord (s : State) (nbits w : Nat) : State :=
  s.withEnv { s.env with turns := .host :: s.env.turns, hostProg := cmdWord nbits w :: s.env.hostProg }

end Sys2Proof.Machine
end

