-- ==== Sys2Proof/Machine/HostSyntax.lean ====
section
/-! DEFINITION. The host program syntax: `CMD` and the pseudo-instructions, each as the host steps it expands to
(spec/30_encoding.md R92 to R94). `WR`, `RD` and `WAITIDLE` are the constructors of `Config.HostStep`. -/

namespace Sys2Proof.Machine

open Sys2Proof.Config

/-- `WR off, v` of 32 bits (R93). -/
def hostWR (off : Nat) (v : Word) : HostStep := .wr off 4 v

/-- `RD off -> name` of 32 bits (R93). -/
def hostRD (off : Nat) (name : String) : HostStep := .rd off 4 name

/-- `CMD <mnemonic operands>` (R93): `WR 0x00` of the word of R92; no step where R92 makes no word. -/
def hostCMD (i : Instr) : Option HostStep := (assemble i).map (hostWR 0x00)

/-- The commands whose engine is the framer (R83). -/
def isFramerCommand : Instr → Bool
  | .wrreg _ _ => true
  | .rdreg _ => true
  | .rdres _ => true
  | .rdid => true
  | .devrst => true
  | .init => true
  | .setduty _ => false
  | .sethz _ => false

/-- `DO <framer mnemonic operands>` (R94): `WAITIDLE; CMD ...; WAITIDLE`. -/
def hostDO (i : Instr) : Option (List HostStep) :=
  if isFramerCommand i then (hostCMD i).map (fun c => [.waitIdle, c, .waitIdle]) else none

/-- `STATUS -> (s, a, h)` (R94). -/
def hostSTATUS (s a h : String) : List HostStep := [hostRD 0x04 s, hostRD 0x0C a, hostRD 0x10 h]

/-- `DUTYOFF` (R94): `CMD SETDUTY 0`. -/
def hostDUTYOFF : HostStep := hostWR 0x00 (encode (.setduty 0))

/-- `DUTYFULL` (R94): `CMD SETDUTY 100`. -/
def hostDUTYFULL : HostStep := hostWR 0x00 (encode (.setduty 100))

end Sys2Proof.Machine
end

