-- ==== Sys2Proof/Machine/CommandLine.lean ====
section
/-! DEFINITION. The command-line text syntax and the host steps each line maps to (spec/30_encoding.md R96). The block
never sees text: this is the boundary interface a host-side parser implements. -/

namespace Sys2Proof.Machine

open Sys2Proof.Config

/-- What the parser does with a line (R96). -/
inductive LineAction where
  /-- `STATUS`; no command is issued. -/
  | status
  /-- One command is issued. -/
  | command (i : Instr)
  /-- Rejected; no command. -/
  | rejected
  deriving DecidableEq, Repr

/-- The value of a decimal digit. -/
def digitValue (c : Char) : Option Nat :=
  if 48 ≤ c.toNat ∧ c.toNat ≤ 57 then some (c.toNat - 48) else none

/-- The digits read after a value `acc`; `none` if a character is no decimal digit. -/
def readDigits (acc : Nat) : List Char → Option Nat
  | [] => some acc
  | c :: cs =>
    match digitValue c with
    | some d => readDigits (10 * acc + d) cs
    | none => none

/-- A decimal integer as a whole: digits only, at least one; no white space and no sign (R96). -/
def decimal (cs : List Char) : Option Nat :=
  match cs with
  | [] => none
  | c :: rest => readDigits 0 (c :: rest)

/-- The text after `f` or `F` (R96): 0, a non-integer, and a value SETHZ cannot encode are rejected. -/
def parseHz (cs : List Char) : LineAction :=
  match decimal cs with
  | some n => if 0 < n ∧ n ≤ 16777215 then .command (.sethz (BitVec.ofNat 24 n)) else .rejected
  | none => .rejected

/-- A line that begins with a digit (R96): rejected above 100, and where it is no integer as a whole. -/
def parseDuty (cs : List Char) : LineAction :=
  match decimal cs with
  | some n => if n ≤ 100 then .command (.setduty n) else .rejected
  | none => .rejected

/-- A line, without its terminator (R96). A line whose first character is none of R96's is "anything else"; so is an
empty line. -/
def parseLine (cs : List Char) : LineAction :=
  match cs with
  | [] => .rejected
  | c :: rest =>
    if (c = 'h' ∨ c = 'H' ∨ c = '?') ∧ rest = [] then .status
    else if c = 'f' ∨ c = 'F' then parseHz rest
    else if (digitValue c).isSome then parseDuty (c :: rest)
    else .rejected

/-- The host steps of a parsed line (R96). -/
def lineSteps : LineAction → List HostStep
  | .status => hostSTATUS "s" "a" "h"
  | .command i => (hostCMD i).toList
  | .rejected => []

/-- The lines of a text after the unfinished line `cur` (reversed): each is terminated by CR or LF (R96). Text after
the last terminator is no line. -/
def linesAfter (cur : List Char) : List Char → List (List Char)
  | [] => []
  | c :: cs => if c = '\r' ∨ c = '\n' then cur.reverse :: linesAfter [] cs else linesAfter (c :: cur) cs

/-- The host steps of a whole text: its lines' steps in order. -/
def textSteps (text : List Char) : List HostStep :=
  (linesAfter [] text).flatMap (fun l => lineSteps (parseLine l))

end Sys2Proof.Machine
end

