-- ==== Sys2Proof/Machine/Assembler.lean ====
section
/-! DEFINITION. The assembler's text syntax of a command: mnemonic and operands as written, to the command's word
(spec/30_encoding.md R92), where an operand out of its range makes no word; and the text of a host program's lines
(R93, R94), to the host steps they stand for. -/

namespace Sys2Proof.Machine

open Sys2Proof.Config

/-! ### Numbers -/

/-- The value of a hexadecimal digit, in either case (log 19). -/
def hexDigitValue (c : Char) : Option Nat :=
  if 48 ≤ c.toNat ∧ c.toNat ≤ 57 then some (c.toNat - 48)
  else if 65 ≤ c.toNat ∧ c.toNat ≤ 70 then some (c.toNat - 55)
  else if 97 ≤ c.toNat ∧ c.toNat ≤ 102 then some (c.toNat - 87)
  else none

/-- The hexadecimal digits read after a value `acc`; `none` if a character is no hexadecimal digit. -/
def readHexDigits (acc : Nat) : List Char → Option Nat
  | [] => some acc
  | c :: cs =>
    match hexDigitValue c with
    | some d => readHexDigits (16 * acc + d) cs
    | none => none

/-- The digits after `0x`: at least one. -/
def hexadecimal (cs : List Char) : Option Nat :=
  match cs with
  | [] => none
  | c :: rest => readHexDigits 0 (c :: rest)

/-- "Numbers are decimal, or hexadecimal with `0x`" (R92). -/
def asmNumber (cs : List Char) : Option Nat :=
  if cs.take 2 = ['0', 'x'] then hexadecimal (cs.drop 2) else decimal cs

/-- A number that may be written with `-` (R92, SETDUTY only). -/
def asmSigned (cs : List Char) : Option Int :=
  if cs.take 1 = ['-'] then (asmNumber (cs.drop 1)).map (fun n => -(n : Int))
  else (asmNumber cs).map (fun n => (n : Int))

/-- An unsigned operand of `w` bits; out of range it is an assembly error (R92). -/
def asmField (w : Nat) (cs : List Char) : Option (BitVec w) :=
  match asmNumber cs with
  | some n => if n < 2 ^ w then some (BitVec.ofNat w n) else none
  | none => none

/-! ### Lines -/

/-- The text without the spaces before and after it (log 19). -/
def trimSpaces (cs : List Char) : List Char :=
  ((cs.dropWhile (· = ' ')).reverse.dropWhile (· = ' ')).reverse

/-- The operands after the unfinished operand `cur` (reversed), separated by commas. -/
def operandsAfter (cur : List Char) : List Char → List (List Char)
  | [] => [trimSpaces cur.reverse]
  | c :: cs => if c = ',' then trimSpaces cur.reverse :: operandsAfter [] cs else operandsAfter (c :: cur) cs

/-- The operands of the text after a mnemonic: none if it is blank. -/
def asmOperands (cs : List Char) : List (List Char) :=
  if trimSpaces cs = [] then [] else operandsAfter [] cs

/-- A mnemonic with no operand. -/
def asmNone (i : Instr) (ops : List (List Char)) : Option Instr :=
  match ops with
  | [] => some i
  | _ :: _ => none

/-- A mnemonic with one operand. -/
def asmOne (f : List Char → Option Instr) (ops : List (List Char)) : Option Instr :=
  match ops with
  | [] => none
  | [x] => f x
  | _ :: _ :: _ => none

/-- WRREG's two operands. -/
def asmWrreg (ops : List (List Char)) : Option Instr :=
  match ops with
  | [] => none
  | [_] => none
  | [x, y] => (asmField 8 x).bind (fun addr => (asmField 16 y).map (fun value => .wrreg addr value))
  | _ :: _ :: _ :: _ => none

/-- The command a mnemonic and its operands name (R92). -/
def asmInstr (mnemonic : List Char) (ops : List (List Char)) : Option Instr :=
  if mnemonic = ['W', 'R', 'R', 'E', 'G'] then asmWrreg ops
  else if mnemonic = ['R', 'D', 'R', 'E', 'G'] then asmOne (fun x => (asmField 8 x).map .rdreg) ops
  else if mnemonic = ['R', 'D', 'R', 'E', 'S'] then asmOne (fun x => (asmField 8 x).map .rdres) ops
  else if mnemonic = ['R', 'D', 'I', 'D'] then asmNone .rdid ops
  else if mnemonic = ['D', 'E', 'V', 'R', 'S', 'T'] then asmNone .devrst ops
  else if mnemonic = ['I', 'N', 'I', 'T'] then asmNone .init ops
  else if mnemonic = ['S', 'E', 'T', 'D', 'U', 'T', 'Y'] then asmOne (fun x => (asmSigned x).map .setduty) ops
  else if mnemonic = ['S', 'E', 'T', 'H', 'Z'] then asmOne (fun x => (asmField 24 x).map .sethz) ops
  else none

/-- The command a line of assembler text names: the mnemonic up to the first space, then its operands (R92). -/
def asmLine (cs : List Char) : Option Instr :=
  asmInstr (cs.takeWhile (· ≠ ' ')) (asmOperands (cs.dropWhile (· ≠ ' ')))

/-- The word of a line of assembler text; `none` is an assembly error: "no word is made" (R92). -/
def assembleLine (cs : List Char) : Option Word := (asmLine cs).bind assemble

/-! ### Host programs -/

/-- The text before and after the first `->`, after the text `cur` (reversed). -/
def splitArrow (cur : List Char) : List Char → Option (List Char × List Char)
  | [] => none
  | c :: cs => if c = '-' ∧ cs.take 1 = ['>'] then some (cur.reverse, cs.drop 1) else splitArrow (c :: cur) cs

/-- A name a program reads into: not blank (log 19). -/
def hostName (cs : List Char) : Option String :=
  if trimSpaces cs = [] then none else some (String.ofList (trimSpaces cs))

/-- `WR off, v` (R93). -/
def hostLineWR (ops : List (List Char)) : Option (List HostStep) :=
  match ops with
  | [] => none
  | [_] => none
  | [x, y] => (asmNumber x).bind (fun off => (asmField 32 y).map (fun v => [hostWR off v]))
  | _ :: _ :: _ :: _ => none

/-- `RD off -> name` (R93). -/
def hostLineRD (cs : List Char) : Option (List HostStep) :=
  (splitArrow [] cs).bind (fun p =>
    (asmNumber (trimSpaces p.1)).bind (fun off => (hostName p.2).map (fun name => [hostRD off name])))

/-- The three names of `STATUS -> (s, a, h)` (R94). -/
def statusNames (ops : List (List Char)) : Option (List HostStep) :=
  match ops with
  | [] => none
  | [_] => none
  | [_, _] => none
  | [s, a, h] =>
    (hostName s).bind (fun s' => (hostName a).bind (fun a' => (hostName h).map (fun h' => hostSTATUS s' a' h')))
  | _ :: _ :: _ :: _ :: _ => none

/-- `STATUS -> (s, a, h)` (R94): the text after the mnemonic. -/
def hostLineSTATUS (cs : List Char) : Option (List HostStep) :=
  (splitArrow [] cs).bind (fun p =>
    if trimSpaces p.1 = [] ∧ (trimSpaces p.2).take 1 = ['('] ∧ (trimSpaces p.2).reverse.take 1 = [')'] then
      statusNames (operandsAfter [] ((trimSpaces p.2).drop 1).dropLast)
    else none)

/-- `steps`, if nothing stands after the mnemonic. -/
def hostBare (steps : List HostStep) (rest : List Char) : Option (List HostStep) :=
  if trimSpaces rest = [] then some steps else none

/-- The host steps of one line of a host program (R93, R94), from its first word and the text after it. -/
def hostWords (word rest : List Char) : Option (List HostStep) :=
  if word = ['W', 'R'] then hostLineWR (asmOperands rest)
  else if word = ['R', 'D'] then hostLineRD rest
  else if word = ['C', 'M', 'D'] then ((asmLine (trimSpaces rest)).bind hostCMD).map (fun c => [c])
  else if word = ['D', 'O'] then (asmLine (trimSpaces rest)).bind hostDO
  else if word = ['W', 'A', 'I', 'T', 'I', 'D', 'L', 'E'] then hostBare [.waitIdle] rest
  else if word = ['S', 'T', 'A', 'T', 'U', 'S'] then hostLineSTATUS rest
  else if word = ['D', 'U', 'T', 'Y', 'O', 'F', 'F'] then hostBare [hostDUTYOFF] rest
  else if word = ['D', 'U', 'T', 'Y', 'F', 'U', 'L', 'L'] then hostBare [hostDUTYFULL] rest
  else none

/-- The host steps of one line of a host program (R93, R94); `none` where the line is none of theirs. -/
def hostLine (cs : List Char) : Option (List HostStep) :=
  hostWords (cs.takeWhile (· ≠ ' ')) (cs.dropWhile (· ≠ ' '))

end Sys2Proof.Machine
end

