-- ==== Sys2Proof/Safety.lean ====
section
/-! DEFINITION. The terms statements are made in: the state invariants (spec/10_state.md R43, with what makes them
inductive), runs under a given schedule, views of the bus history, and the texts of a number. -/

namespace Sys2Proof.Machine

open Sys2Proof.Config

/-! ### Invariants -/

/-- The framer group's invariants under parameters `p`. -/
structure Framer.Inv (p : Params) (f : Framer) : Prop where
  /-- 10_state.md R43, line 7. -/
  idleNoWait : f.busy = false → f.wkind = .none
  /-- R43, line 8. -/
  attemptRange : f.busy = true → 1 ≤ f.attempt ∧ f.attempt ≤ p.maxRetries
  /-- R25: `0 <= FR.PC < len(FR.PROG)` while BUSY = 1. -/
  onProgram : f.busy = true → f.pc < (f.program p).length
  /-- R104: a backoff is begun only while attempts are left, and lasts BACKOFF_TICKS. -/
  backoff : f.wkind = .backoff → f.attempt < p.maxRetries ∧ f.wneed = backoffTicks p
  /-- 40_bus_transport.md R108: a settle wait is WAITSETTLE's, and lasts SETTLE_TICKS. -/
  settle : f.wkind = .settle → f.current p = some .waitSettle ∧ f.wneed = settleTicks p
  /-- 40_bus_transport.md R105: no wait leaves no count. -/
  noWait : f.wkind = .none → f.wcnt = 0 ∧ f.wneed = 0
  /-- R27: FR.WCNT is 0..FR.WNEED. -/
  waitRange : f.wcnt ≤ f.wneed
  /-- 60_exceptions.md R200: codes 3 and 4 are never written. -/
  errRange : f.err = .none ∨ f.err = .busError ∨ f.err = .invalidParam
  /-- R22 with 30_encoding.md R85: RESULT bits 31:28 are 0. -/
  resultRange : f.result.toNat < 2 ^ rawWidth

/-- The actuation group's invariants under parameters `p`. -/
structure Actuation.Inv (p : Params) (g : Actuation) : Prop where
  /-- R43, line 1. -/
  dutyRange : g.duty.toNat ≤ dutyMax
  /-- R43, line 2. -/
  activeRange : g.ccrActive ≤ p.pwmPeriod
  /-- R43, line 2. -/
  shadowRange : g.ccrShadow ≤ p.pwmPeriod
  /-- R32: PWM_CNT is 0..P_PWM_PERIOD. -/
  pwmRange : g.pwmCnt ≤ p.pwmPeriod
  /-- R43, line 3. -/
  reloadRange : g.togRun = true → 1 ≤ g.togReload ∧ g.togReload ≤ p.toggleReloadMax
  /-- R43, line 3. -/
  toggleRange : g.togRun = true → g.togCnt < g.togReload + p.reloadOffset
  /-- R33: while the timer runs, TOG_RELOAD is the reload of the last nonzero frequency. -/
  reloadOfHz : g.togRun = true → g.togHz ≠ 0 ∧ g.togReload = reload p g.togHz.toNat
  /-- R33, R152: a stopped timer has never been started. -/
  stopped : g.togRun = false → g.togHz = 0 ∧ g.togReload = 0 ∧ g.togCnt = 0
  /-- R43, line 4. -/
  claimPending : g.hbPhase = .claim → g.togglePending = true
  /-- R43, line 5. -/
  deadLow : g.hbPhase = .deadtime → g.outA = false ∧ g.outB = false
  /-- R43, line 6. -/
  notBothHigh : ¬(g.outA = true ∧ g.outB = true)
  /-- R30: HB_DT is 0..DT_TICKS. -/
  deadRange : g.hbDt ≤ dtTicks p

/-- The machine's invariant: the parameters are R6's, and each group keeps its own. -/
structure State.Inv (s : State) : Prop where
  params : s.params.Valid
  fr : s.fr.Inv s.params
  act : s.act.Inv s.params

/-! ### Runs -/

/-- `s` with the turns `ts` put in front of its schedule. -/
def State.scheduled (s : State) (ts : List Turn) : State :=
  s.withEnv { s.env with turns := ts ++ s.env.turns }

/-- The machine's answer once the turns `ts` have been taken, one step each. -/
def play (ts : List Turn) (s : State) : Host.Outcome State Fault Refusal :=
  Sys2Proof.core.run ts.length (s.scheduled ts)

/-- A schedule in which neither the host nor RESET has a turn. -/
abbrev Undisturbed (ts : List Turn) : Prop := Turn.host ∉ ts ∧ Turn.reset ∉ ts

/-- The framer and the tick in turn, `n` times each: a fair schedule of both (70_reset_and_hazards.md R236). -/
def roundRobin : Nat → List Turn
  | 0 => []
  | n + 1 => .framer :: .tick :: roundRobin n

/-! ### The bus -/

/-- The frame of an acknowledged write event. -/
def ackedWrite : BusEvent → Option (List Byte)
  | .bw bytes true => some bytes
  | .bw _ false => none
  | .br _ _ => none

/-- The frames of a history's acknowledged writes, in order. -/
def ackedWrites (h : List BusEvent) : List (List Byte) := h.filterMap ackedWrite

/-- The frame a micro-operation sends, if it is a `TX`. -/
def sentFrame : MicroOp → Option (List Byte)
  | .tx bytes => some bytes
  | .rx _ => none
  | .idchk => none
  | .waitSettle => none
  | .fin _ => none

/-- The frames a program sends, in order. -/
def sentFrames (ms : List MicroOp) : List (List Byte) := ms.filterMap sentFrame

/-- Whether a micro-operation is a transport primitive (40_bus_transport.md R100). -/
def isPrimitive : MicroOp → Bool
  | .tx _ => true
  | .rx _ => true
  | .idchk => false
  | .waitSettle => false
  | .fin _ => false

/-- The transport primitives of a program, in order. -/
def primitives (ms : List MicroOp) : List MicroOp := ms.filter isPrimitive

/-- Whether an event is an attempt of a primitive: a `TX` sends its bytes, an `RX` asks two (R102, R103). -/
def isAttemptOf : MicroOp → BusEvent → Bool
  | .tx bytes, .bw sent _ => decide (sent = bytes)
  | .rx _, .br n _ => decide (n = 2)
  | .tx _, .br _ _ => false
  | .rx _, .bw _ _ => false
  | .idchk, _ => false
  | .waitSettle, _ => false
  | .fin _, _ => false

/-- Whether an event's attempt was answered `Ok`. -/
def succeeded : BusEvent → Bool
  | .bw _ ok => ok
  | .br _ data => data.isSome

/-- How many transport primitives a framer command's program has (40_bus_transport.md R109). -/
def primitiveCount (opc : BitVec 4) : Nat :=
  match opc.toNat with
  | 1 => 1
  | 2 => 2
  | 3 => 4
  | 4 => 2
  | 5 => 1
  | 6 => 20
  | _ => 0

/-! ### Assembler text -/

/-- The ways a number is written in R92's syntax: decimal, or hexadecimal with `0x`, its digits small or capital. -/
def numberTexts (n : Nat) : List (List Char) :=
  [Nat.toDigits 10 n, '0' :: 'x' :: Nat.toDigits 16 n, '0' :: 'x' :: (Nat.toDigits 16 n).map Char.toUpper]

end Sys2Proof.Machine
end

