-- ==== Sys2Proof/Certificates/Slice0/Obligations.lean ====
section
/-! DEFINITION. The statements for the provers. Each docstring says which rule of spec/ it formalises. -/

open Sys2Proof Sys2Proof.Machine Sys2Proof.Config

/-! ### Encoding -/

/-- 30_encoding.md R81, R86, R92: decoding the word of any command with operands in range gives the command back. -/
def Obligations.DecodeOfEncodeIsIdentity : Prop :=
  ∀ i : Instr, i.wellFormed = true → decode (encode i) = .ok i

/-- R90: every word that decodes to a command is the one word of that command, with its operands in range. -/
def Obligations.LegalWordIsTheWordOfItsCommand : Prop :=
  ∀ (v : Word) (i : Instr), decode v = .ok i → encode i = v ∧ i.wellFormed = true

/-- R87, R90 with spec/opcode_table.json: a word is legal exactly if it fits a row's match under the row's mask. -/
def Obligations.LegalWordsAreTheTableRows : Prop :=
  ∀ v : Word, (∃ i, decode v = .ok i) ↔
    v &&& 0xFF000000 = 0x10000000 ∨ v &&& 0xFF00FFFF = 0x20000000 ∨ v &&& 0xFF00FFFF = 0x30000000 ∨
    v = 0x40000000 ∨ v = 0x50000000 ∨ v = 0x60000000 ∨ v &&& 0xFFFF0000 = 0x80000000 ∨
    v &&& 0xFF000000 = 0x90000000

/-- 95_test_vectors.md section 2.1: words written out there decode to the commands it names. -/
def Obligations.SampleWordsDecodeAsListed : Prop :=
  decode 0x101A1E01 = .ok (.wrreg 0x1A 0x1E01) ∧ decode 0x207F0000 = .ok (.rdreg 0x7F) ∧
  decode 0x30FF0000 = .ok (.rdres 255) ∧ decode 0x40000000 = .ok .rdid ∧ decode 0x50000000 = .ok .devrst ∧
  decode 0x60000000 = .ok .init ∧ decode 0x8000FFFB = .ok (.setduty (-5)) ∧
  decode 0x90FFFFFF = .ok (.sethz 0xFFFFFF) ∧ decode 0x207F0001 = .error .nonzeroD ∧
  decode 0x70000000 = .error (.reservedOpcode 7)

/-! ### Steps, turns and the CMD write -/

/-- 00_scope.md R5, 20_memory.md R71: a step is the turn at the head of the schedule, taken by its agent (the schedule
as data is the model's choice, log 3). -/
def Obligations.StepGivesTheListedTurn : Prop :=
  ∀ (s : State) (t : Turn) (ts : List Turn), s.env.turns = t :: ts →
    step s = runTurn t { s with env := { s.env with turns := ts, turnNo := s.env.turnNo + 1 } }

/-- 30_encoding.md R80: where the host's next step writes a command's word to CMD, the step is that command's meaning at
that state, with the turn and the host's step taken off the model's lists (logs 3, 6). -/
def Obligations.StepRunsTheDecodedCommand : Prop :=
  ∀ (s : State) (ts : List Turn) (hp : List HostStep) (v : Word) (i : Instr),
    s.env.turns = .host :: ts → s.env.hostProg = .wr 0x00 4 v :: hp → decode v = .ok i →
    step s = exec i
      { s with env := { s.env with turns := ts, hostProg := hp, turnNo := s.env.turnNo + 1 } }

/-- 30_encoding.md R89: an illegal word has no effect except ILL, busy or not. -/
def Obligations.IllegalWordOnlySetsIll : Prop :=
  ∀ (s : State) (ts : List Turn) (hp : List HostStep) (v : Word) (e : Illegal),
    s.env.turns = .host :: ts → s.env.hostProg = .wr 0x00 4 v :: hp → decode v = .error e →
    step s = .next
      { s with
        fr := { s.fr with ill := true }
        env := { s.env with turns := ts, hostProg := hp, turnNo := s.env.turnNo + 1 } }

/-- 30_encoding.md R88: a framer command written while BUSY = 1 has no effect except OVR. -/
def Obligations.BusyFramerDropsFramerCommands : Prop :=
  ∀ (s : State) (i : Instr), s.fr.busy = true → isFramerCommand i = true →
    exec i s = .next { s with fr := { s.fr with ovr := true } }

/-- 41_register_protocol.md R120: while BUSY = 0 each framer command is accepted, its operands latched and the sequencer
set to its first micro-operation; INIT also clears IDMM; an RDRES of a channel above 3 only gets INVALID_PARAM. -/
def Obligations.IdleFramerAcceptsFramerCommands : Prop :=
  ∀ s : State, s.fr.busy = false →
    (∀ (addr : Byte) (value : Half), exec (.wrreg addr value) s = .next { s with fr := { s.fr with
      busy := true, err := .none, opc := 0x1, a := addr, d := value, pc := 0, attempt := 1, wkind := .none, wcnt := 0,
      wneed := 0 } }) ∧
    (∀ addr : Byte, exec (.rdreg addr) s = .next { s with fr := { s.fr with
      busy := true, err := .none, opc := 0x2, a := addr, d := 0, pc := 0, attempt := 1, wkind := .none, wcnt := 0,
      wneed := 0 } }) ∧
    (∀ ch : Byte, ch.toNat < 4 → exec (.rdres ch) s = .next { s with fr := { s.fr with
      busy := true, err := .none, opc := 0x3, a := ch, d := 0, pc := 0, attempt := 1, wkind := .none, wcnt := 0,
      wneed := 0 } }) ∧
    (∀ ch : Byte, 4 ≤ ch.toNat → exec (.rdres ch) s = .next { s with fr := { s.fr with err := .invalidParam } }) ∧
    exec .rdid s = .next { s with fr := { s.fr with
      busy := true, err := .none, opc := 0x4, a := 0, d := 0, pc := 0, attempt := 1, wkind := .none, wcnt := 0,
      wneed := 0 } } ∧
    exec .devrst s = .next { s with fr := { s.fr with
      busy := true, err := .none, opc := 0x5, a := 0, d := 0, pc := 0, attempt := 1, wkind := .none, wcnt := 0,
      wneed := 0 } } ∧
    exec .init s = .next { s with fr := { s.fr with
      busy := true, err := .none, opc := 0x6, a := 0, d := 0, pc := 0, attempt := 1, wkind := .none, wcnt := 0,
      wneed := 0, idmm := false } }

/-- 40_bus_transport.md R101, 41_register_protocol.md R127: the micro-operations of each framer command, INIT's writes
in R127's order, and the programs' lengths. -/
def Obligations.ProgramsAreTheListedMicroOperations : Prop :=
  ∀ (p : Params) (a : Byte) (d : Half),
    (let W := fun (addr : Byte) (v : Half) => MicroOp.tx [addr, v.extractLsb' 8 8, v.extractLsb' 0 8]
    prog p 0x1 a d = [W a d, .fin .none] ∧
    prog p 0x2 a d = [.tx [a], .rx .v0, .fin .v16] ∧
    (a.toNat ≤ 3 → prog p 0x3 a d =
      [.tx [BitVec.ofNat 8 (p.resultBase.toNat + 2 * a.toNat)], .rx .v0,
       .tx [BitVec.ofNat 8 (p.resultBase.toNat + 2 * a.toNat + 1)], .rx .v1, .fin .raw]) ∧
    prog p 0x4 a d = [.tx [p.idAddr], .rx .v0, .fin .v16] ∧
    prog p 0x5 a d = [W p.configAddr p.resetPattern, .fin .none] ∧
    prog p 0x6 a d =
      [.tx [p.idAddr], .rx .v0, .idchk,
       W p.clkdivAddr.ch0 p.clkdivVal.ch0, W p.clkdivAddr.ch1 p.clkdivVal.ch1,
       W p.clkdivAddr.ch2 p.clkdivVal.ch2, W p.clkdivAddr.ch3 p.clkdivVal.ch3,
       W p.driveAddr.ch0 p.driveVal.ch0, W p.driveAddr.ch1 p.driveVal.ch1,
       W p.driveAddr.ch2 p.driveVal.ch2, W p.driveAddr.ch3 p.driveVal.ch3,
       W p.settleAddr.ch0 p.settleVal.ch0, W p.settleAddr.ch1 p.settleVal.ch1,
       W p.settleAddr.ch2 p.settleVal.ch2, W p.settleAddr.ch3 p.settleVal.ch3,
       W p.rcountAddr.ch0 p.rcountVal.ch0, W p.rcountAddr.ch1 p.rcountVal.ch1,
       W p.rcountAddr.ch2 p.rcountVal.ch2, W p.rcountAddr.ch3 p.rcountVal.ch3,
       W p.muxAddr p.muxVal, W p.configAddr p.configVal, .waitSettle, .fin .none])

/-- 30_encoding.md R95: RDID runs RDREG's program at P_ID_ADDR, DEVRST runs WRREG's at P_CONFIG_ADDR with
P_RESET_PATTERN (an inference the rule marks as derived). -/
def Obligations.RdidAndDevrstAreExpansions : Prop :=
  ∀ (p : Params) (a a' : Byte) (d d' : Half),
    prog p 0x4 a d = prog p 0x2 p.idAddr d' ∧ prog p 0x5 a d = prog p 0x1 p.configAddr p.resetPattern ∧
    prog p 0x2 a d = prog p 0x2 a d' ∧ prog p 0x3 a d = prog p 0x3 a d' ∧ prog p 0x6 a d = prog p 0x6 a' d'

/-! ### The framer's turns -/

/-- 40_bus_transport.md R102, R104, R106: a transmit attempt appends its event; `Ok` moves on to the next
micro-operation at attempt 1; `Fail` begins a backoff while attempts are left, and at attempt P_MAX_RETRIES ends the
command with BUS_ERROR. -/
def Obligations.TransmitAttemptFollowsItsAnswer : Prop :=
  ∀ (s : State) (bytes : List Byte), s.fr.busy = true → s.fr.wkind = .none →
    s.fr.current s.params = some (.tx bytes) →
    (∀ b0 b1, s.nextAnswer = .ok b0 b1 → framerTurn s = .next { s with
      fr := { s.fr with pc := s.fr.pc + 1, attempt := 1 }
      busHist := s.busHist ++ [.bw bytes true]
      env := { s.env with oracle := s.env.oracle.tail } }) ∧
    (s.nextAnswer = .fail → s.fr.attempt < s.params.maxRetries → framerTurn s = .next { s with
      fr := { s.fr with wkind := .backoff, wneed := (5 * s.params.tickHz + 999) / 1000, wcnt := 0 }
      busHist := s.busHist ++ [.bw bytes false]
      env := { s.env with oracle := s.env.oracle.tail } }) ∧
    (s.nextAnswer = .fail → s.fr.attempt = s.params.maxRetries → framerTurn s = .next { s with
      fr := { s.fr with err := .busError, busy := false, attempt := 1, wkind := .none }
      busHist := s.busHist ++ [.bw bytes false]
      env := { s.env with oracle := s.env.oracle.tail } })

/-- 40_bus_transport.md R103: a receive attempt asks two bytes; `Ok` puts them big-endian into the latch it names and
moves on; `Fail` leaves the latch as it was, and is retried or final as a transmit attempt's is (R104, R106). -/
def Obligations.ReceiveAttemptFollowsItsAnswer : Prop :=
  ∀ (s : State) (k : Latch), s.fr.busy = true → s.fr.wkind = .none → s.fr.current s.params = some (.rx k) →
    (∀ b0 b1, s.nextAnswer = .ok b0 b1 → ∃ t, framerTurn s = .next t ∧
      (match k with
        | .v0 => t.fr.v0.toNat = b0.toNat * 256 + b1.toNat ∧ t.fr.v1 = s.fr.v1
        | .v1 => t.fr.v1.toNat = b0.toNat * 256 + b1.toNat ∧ t.fr.v0 = s.fr.v0) ∧
      t = { s with
        fr := { s.fr with v0 := t.fr.v0, v1 := t.fr.v1, pc := s.fr.pc + 1, attempt := 1 }
        busHist := s.busHist ++ [.br 2 (some [b0, b1])]
        env := { s.env with oracle := s.env.oracle.tail } }) ∧
    (s.nextAnswer = .fail → s.fr.attempt < s.params.maxRetries → framerTurn s = .next { s with
      fr := { s.fr with wkind := .backoff, wneed := (5 * s.params.tickHz + 999) / 1000, wcnt := 0 }
      busHist := s.busHist ++ [.br 2 none]
      env := { s.env with oracle := s.env.oracle.tail } }) ∧
    (s.nextAnswer = .fail → s.fr.attempt = s.params.maxRetries → framerTurn s = .next { s with
      fr := { s.fr with err := .busError, busy := false, attempt := 1, wkind := .none }
      busHist := s.busHist ++ [.br 2 none]
      env := { s.env with oracle := s.env.oracle.tail } })

/-- 40_bus_transport.md R105: once FR.WCNT has reached FR.WNEED a backoff ends with the next attempt and a settle wait
with the next micro-operation; before that no framer step is enabled, and a turn taken all the same changes nothing (the
model's reading, log 4). -/
def Obligations.WaitEndsOnceItsTicksHavePassed : Prop :=
  ∀ s : State, s.fr.busy = true →
    (s.fr.wkind = .backoff → s.fr.wneed ≤ s.fr.wcnt → framerTurn s = .next { s with fr := { s.fr with
      attempt := s.fr.attempt + 1, wkind := .none, wcnt := 0, wneed := 0 } }) ∧
    (s.fr.wkind = .settle → s.fr.wneed ≤ s.fr.wcnt → framerTurn s = .next { s with fr := { s.fr with
      pc := s.fr.pc + 1, wkind := .none, wcnt := 0, wneed := 0 } }) ∧
    (s.fr.wkind ≠ .none → s.fr.wcnt < s.fr.wneed → framerTurn s = .next s)

/-- 40_bus_transport.md R107: FIN ends the command with ERR 0, and writes RESULT for V16 (V0 zero-extended) and RAW
(the 28-bit result of V0 and V1), but not for NONE. -/
def Obligations.FinEndsTheCommand : Prop :=
  ∀ (s : State) (kind : FinKind), s.fr.busy = true → s.fr.wkind = .none →
    s.fr.current s.params = some (.fin kind) →
    ∃ r : Word, framerTurn s = .next { s with fr := { s.fr with result := r, err := .none, busy := false } } ∧
      (match kind with
        | .none => r = s.fr.result
        | .v16 => r.toNat = s.fr.v0.toNat
        | .raw => r.toNat = s.fr.v0.toNat % 4096 * 65536 + s.fr.v1.toNat)

/-- 41_register_protocol.md R131, 40_bus_transport.md R108: IDCHK puts the identity into RESULT, sets IDMM exactly if it
differs from P_EXPECTED_ID and goes on; WAITSETTLE begins a wait of SETTLE_TICKS ticks and stays at its place. -/
def Obligations.IdentityCheckAndSettleSteps : Prop :=
  ∀ s : State, s.fr.busy = true → s.fr.wkind = .none →
    (s.fr.current s.params = some .idchk → framerTurn s = .next { s with fr := { s.fr with
      result := BitVec.ofNat 32 s.fr.v0.toNat, idmm := decide (s.fr.v0 ≠ s.params.expectedId), pc := s.fr.pc + 1 } }) ∧
    (s.fr.current s.params = some .waitSettle → framerTurn s = .next { s with fr := { s.fr with
      wkind := .settle, wneed := (10 * s.params.tickHz + 999) / 1000, wcnt := 0 } })

/-! ### Whole commands, under every schedule -/

/-- 41_register_protocol.md R122, R124, R133: RDREG and RDID from an idle framer, both attempts answered `Ok`, under any
schedule without a host turn or a RESET and with at least three framer turns: one pointer write, one two-byte read, and
RESULT is the two bytes big-endian, zero-extended. -/
def Obligations.RegisterReadUnderAnySchedule : Prop :=
  ∀ (s : State) (i : Instr) (addr c0 c1 b0 b1 : Byte) (rest : List BusAnswer) (ts : List Turn),
    (i = .rdreg addr ∨ i = .rdid ∧ addr = s.params.idAddr) →
    s.fr.busy = false → s.env.oracle = .ok c0 c1 :: .ok b0 b1 :: rest → Undisturbed ts → 3 ≤ ts.count .framer →
    ∃ t s', exec i s = .next t ∧ play ts t = .next s' ∧
      s'.fr.busy = false ∧ s'.fr.err = .none ∧ s'.fr.result.toNat = b0.toNat * 256 + b1.toNat ∧
      s'.fr.idmm = s.fr.idmm ∧ s'.busHist = s.busHist ++ [.bw [addr] true, .br 2 (some [b0, b1])] ∧
      s'.env.oracle = rest

/-- 41_register_protocol.md R121, R125, R133, 20_memory.md R62: WRREG and DEVRST from an idle framer, the attempt
answered `Ok`, under any such schedule with at least two framer turns: one write of the address, the value's high byte
and its low byte; RESULT and the latches stay. -/
def Obligations.RegisterWriteUnderAnySchedule : Prop :=
  ∀ (s : State) (i : Instr) (addr : Byte) (value : Half) (c0 c1 : Byte) (rest : List BusAnswer) (ts : List Turn),
    (i = .wrreg addr value ∨ i = .devrst ∧ addr = s.params.configAddr ∧ value = s.params.resetPattern) →
    s.fr.busy = false → s.env.oracle = .ok c0 c1 :: rest → Undisturbed ts → 2 ≤ ts.count .framer →
    ∃ t s', exec i s = .next t ∧ play ts t = .next s' ∧
      s'.fr.busy = false ∧ s'.fr.err = .none ∧ s'.fr.result = s.fr.result ∧ s'.fr.idmm = s.fr.idmm ∧
      s'.fr.v0 = s.fr.v0 ∧ s'.fr.v1 = s.fr.v1 ∧
      s'.busHist = s.busHist ++
        [.bw [addr, BitVec.ofNat 8 (value.toNat / 256), BitVec.ofNat 8 (value.toNat % 256)] true] ∧
      s'.env.oracle = rest

/-- 41_register_protocol.md R123, R133, 20_memory.md R63: RDRES of a channel 0 to 3 from an idle framer, the four attempts
answered `Ok`, under any such schedule with at least five framer turns: the high half is read before the low half, and
RESULT is the 28-bit result, the first byte's high four bits dropped. -/
def Obligations.ChannelReadUnderAnySchedule : Prop :=
  ∀ (s : State) (ch c0 c1 h1 h0 c2 c3 l1 l0 : Byte) (rest : List BusAnswer) (ts : List Turn),
    ch.toNat ≤ 3 → s.fr.busy = false →
    s.env.oracle = .ok c0 c1 :: .ok h1 h0 :: .ok c2 c3 :: .ok l1 l0 :: rest →
    Undisturbed ts → 5 ≤ ts.count .framer →
    ∃ t s', exec (.rdres ch) s = .next t ∧ play ts t = .next s' ∧
      s'.fr.busy = false ∧ s'.fr.err = .none ∧
      s'.fr.result.toNat = (h1.toNat * 256 + h0.toNat) % 4096 * 65536 + l1.toNat * 256 + l0.toNat ∧
      s'.busHist = s.busHist ++
        [.bw [BitVec.ofNat 8 (s.params.resultBase.toNat + 2 * ch.toNat)] true, .br 2 (some [h1, h0]),
         .bw [BitVec.ofNat 8 (s.params.resultBase.toNat + 2 * ch.toNat + 1)] true, .br 2 (some [l1, l0])] ∧
      s'.env.oracle = rest

/-- 41_register_protocol.md R126, R129, R131, R133: INIT from an idle framer, all twenty attempts answered `Ok`, under any
schedule without a host turn or a RESET that gives 22 framer turns, then SETTLE_TICKS ticks, then two framer turns: the
identity read, the 18 writes in order, RESULT the identity, IDMM whether it differs from P_EXPECTED_ID, ERR 0. -/
def Obligations.InitUnderAnySchedule : Prop :=
  ∀ (s : State) (c0 c1 b0 b1 : Byte) (acks rest : List BusAnswer) (ts1 ts2 ts3 : List Turn),
    s.fr.busy = false → s.env.oracle = .ok c0 c1 :: .ok b0 b1 :: (acks ++ rest) →
    acks.length = 18 → (∀ x ∈ acks, x ≠ .fail) →
    Undisturbed ts1 → Undisturbed ts2 → Undisturbed ts3 →
    22 ≤ ts1.count .framer → settleTicks s.params ≤ ts2.count .tick → 2 ≤ ts3.count .framer →
    ∃ t s', exec .init s = .next t ∧ play (ts1 ++ ts2 ++ ts3) t = .next s' ∧
      s'.fr.busy = false ∧ s'.fr.err = .none ∧ s'.fr.result.toNat = b0.toNat * 256 + b1.toNat ∧
      (s'.fr.idmm = true ↔ b0.toNat * 256 + b1.toNat ≠ s.params.expectedId.toNat) ∧
      s'.busHist = s.busHist ++ [.bw [s.params.idAddr] true, .br 2 (some [b0, b1])] ++
        (initWrites s.params).map (fun w => .bw (writeFrame w.1 w.2) true) ∧
      s'.env.oracle = rest

/-- 20_memory.md R71 item 2, 41_register_protocol.md R127, R128, 70_reset_and_hazards.md R229 (an inference the spec marks
as derived): while a framer command runs, whatever the answers and the schedule, every frame it sends, acknowledged or
not, is the one that follows, in its program, those already acknowledged. So its acknowledged writes are a prefix of the
frames of its program, in order; they are all of them once the command has ended without an error; and INIT does not even
attempt its global config write before the 17 others were acknowledged. -/
def Obligations.AcknowledgedWritesFollowTheProgram : Prop :=
  ∀ (s s' : State) (ts : List Turn), s.Inv → s.fr.busy = true → s.fr.pc = 0 → s.fr.wkind = .none →
    s.fr.err = .none → Undisturbed ts → play ts s = .next s' →
    ∃ new, s'.busHist = s.busHist ++ new ∧
      (∀ pre bytes ok post, new = pre ++ .bw bytes ok :: post →
        (sentFrames (prog s.params s.fr.opc s.fr.a s.fr.d))[(ackedWrites pre).length]? = some bytes) ∧
      ackedWrites new <+: sentFrames (prog s.params s.fr.opc s.fr.a s.fr.d) ∧
      (s'.fr.busy = false → s'.fr.err = .none →
        ackedWrites new = sentFrames (prog s.params s.fr.opc s.fr.a s.fr.d))

/-- 40_bus_transport.md R109 (an inference the rule marks as derived): a command with `p` primitives makes at most
`p * P_MAX_RETRIES` bus attempts, for every answer of the oracle and every schedule. -/
def Obligations.AttemptsAreBounded : Prop :=
  ∀ (s s' : State) (ts : List Turn), s.Inv → s.fr.busy = true → s.fr.pc = 0 → s.fr.attempt = 1 →
    s.fr.wkind = .none → Undisturbed ts → play ts s = .next s' →
    s'.busHist.length ≤ s.busHist.length + primitiveCount s.fr.opc * s.params.maxRetries

/-- 40_bus_transport.md R109, 70_reset_and_hazards.md R236 (derived there): under the fair schedule that gives the framer
and the tick their turns alternately, every running command ends, for every answer of the oracle. -/
def Obligations.RoundRobinEndsEveryCommand : Prop :=
  ∀ s : State, s.Inv → s.fr.busy = true →
    ∃ n s', play (roundRobin n) s = .next s' ∧ s'.fr.busy = false

/-- 40_bus_transport.md R110, 20_memory.md R72: while BUSY = 0 and the host issues nothing, no schedule changes the framer's
registers or adds a bus event: RESULT, ERR and the history are final. -/
def Obligations.IdleFramerIsSilent : Prop :=
  ∀ (s s' : State) (ts : List Turn), s.fr.busy = false → s.fr.wkind = .none → Undisturbed ts →
    play ts s = .next s' → s'.fr = s.fr ∧ s'.busHist = s.busHist ∧ s'.hostReads = s.hostReads

/-- 00_scope.md R8, 40_bus_transport.md R104, R108: a backoff or settle wait lasts at least its ticks. Whatever any agent
but RESET does (the host included), while fewer than FR.WNEED - FR.WCNT ticks have come the framer is still at that wait,
makes no bus attempt, and keeps RESULT and ERR. -/
def Obligations.WaitLastsItsTicks : Prop :=
  ∀ (s s' : State) (ts : List Turn), s.fr.busy = true → s.fr.wkind ≠ .none → .reset ∉ ts →
    s.fr.wcnt + ts.count .tick < s.fr.wneed → play ts s = .next s' →
    s'.fr.busy = true ∧ s'.fr.wkind = s.fr.wkind ∧ s'.fr.pc = s.fr.pc ∧ s'.fr.attempt = s.fr.attempt ∧
      s'.fr.wcnt = s.fr.wcnt + ts.count .tick ∧ s'.fr.result = s.fr.result ∧ s'.fr.err = s.fr.err ∧
      s'.busHist = s.busHist

/-- 10_state.md R22, 70_reset_and_hazards.md R226: only a FIN that carries a value, IDCHK and RESET change RESULT; so a
command that ends with an error does not. -/
def Obligations.OnlyFinAndIdchkWriteResult : Prop :=
  ∀ s s' : State, step s = .next s' → s'.fr.result ≠ s.fr.result →
    s.nextTurn = .reset ∨
    (s.nextTurn = .framer ∧ s.fr.busy = true ∧
      (s.fr.current s.params = some (.fin .v16) ∨ s.fr.current s.params = some (.fin .raw) ∨
        s.fr.current s.params = some .idchk))

/-- 60_exceptions.md R200, R202: a CMD write makes ERR INVALID_PARAM only for an RDRES of a channel above 3 while the
framer is idle; and no CMD write makes it BUS_ERROR. -/
def Obligations.OnlyRdresRaisesInvalidParam : Prop :=
  ∀ (i : Instr) (s t : State), exec i s = .next t → t.fr.err ≠ s.fr.err →
    t.fr.err = .none ∨ (t.fr.err = .invalidParam ∧ s.fr.busy = false ∧ ∃ ch : Byte, i = .rdres ch ∧ 4 ≤ ch.toNat)

/-! ### Actuation commands -/

/-- 45_actuation_commands.md R150: SETDUTY clamps the percent, writes DUTY, the compare value and CCR_UPD, and nothing
else, whether or not the framer is busy. -/
def Obligations.SetDutyClampsAndComputes : Prop :=
  ∀ (s : State) (pct : Int),
    ∃ pc : Nat, (pc : Int) = min (max pct 0) 100 ∧
      exec (.setduty pct) s = .next { s with act := { s.act with
        duty := BitVec.ofNat 7 pc
        ccrShadow := min (pc * (s.params.pwmPeriod + 1) / 100) s.params.pwmPeriod
        ccrUpd := true } }

/-- 45_actuation_commands.md R151, R152: SETHZ 0 changes nothing; any other frequency stops the timer, applies
`reload(hz)`, resets the counter and restarts, in one step, and records the frequency asked. -/
def Obligations.SetHzRestartsTheToggleTimer : Prop :=
  ∀ (s : State) (hz : BitVec 24),
    (hz = 0 → exec (.sethz hz) s = .next s) ∧
    (hz ≠ 0 → exec (.sethz hz) s = .next { s with act := { s.act with
      togRun := true
      togReload := min (max (s.params.tickHz / (2 * hz.toNat)) 1) s.params.toggleReloadMax
      togCnt := 0
      togHz := hz } })

/-- 46_actuation_engine.md R182 (derived there): the compare value of a percent 0 to 100 is at most the period and within
one tick of the percent of a cycle. -/
def Obligations.CompareValueIsWithinOneTick : Prop :=
  ∀ (p : Params) (pc : Nat), pc ≤ 100 →
    compareValue p pc ≤ p.pwmPeriod ∧ compareValue p pc * 100 ≤ pc * (p.pwmPeriod + 1) ∧
      pc * (p.pwmPeriod + 1) ≤ (compareValue p pc + 1) * 100

/-- 45_actuation_commands.md R151: the reload is in the timer's range, and where it is not clamped it is the half-period in
ticks, truncated. -/
def Obligations.ReloadIsTheTruncatedHalfPeriod : Prop :=
  ∀ (p : Params) (hz : Nat), p.Valid → 1 ≤ hz →
    1 ≤ reload p hz ∧ reload p hz ≤ p.toggleReloadMax ∧
      (1 < reload p hz → reload p hz < p.toggleReloadMax →
        reload p hz * (2 * hz) ≤ p.tickHz ∧ p.tickHz < (reload p hz + 1) * (2 * hz))

/-- 45_actuation_commands.md R153: no step changes DUTY, CCR_SHADOW, TOG_RELOAD or TOG_HZ except SETDUTY, SETHZ and
reset. -/
def Obligations.SettersAreOpenLoop : Prop :=
  ∀ s s' : State, step s = .next s' → s.nextTurn ≠ .reset →
    ((s'.act.duty ≠ s.act.duty ∨ s'.act.ccrShadow ≠ s.act.ccrShadow) →
      s.nextTurn = .host ∧ ∃ v pct, s.afterTurn.nextHostStep = .wr 0x00 4 v ∧ decode v = .ok (.setduty pct)) ∧
    ((s'.act.togReload ≠ s.act.togReload ∨ s'.act.togHz ≠ s.act.togHz) →
      s.nextTurn = .host ∧ ∃ v hz, s.afterTurn.nextHostStep = .wr 0x00 4 v ∧ decode v = .ok (.sethz hz) ∧ hz ≠ 0)

/-! ### The actuation engine -/

/-- 46_actuation_engine.md R170, R181: a tick moves the toggle timer, the PWM timer with the forced load at its wrap, the
dead-time count and the framer's wait count, all in one step, and nothing else. -/
def Obligations.TickMovesEveryTimer : Prop :=
  ∀ s : State,
    (let event : Prop := s.act.togCnt + 1 ≥ s.act.togReload + s.params.reloadOffset
    let wrap : Prop := s.act.pwmCnt = s.params.pwmPeriod
    runTurn .tick s = .next { s with
      act := { s.act with
        togCnt := if s.act.togRun = true then (if event then 0 else s.act.togCnt + 1) else s.act.togCnt
        togglePending := if s.act.togRun = true ∧ event then true else s.act.togglePending
        pwmCnt := if wrap then 0 else s.act.pwmCnt + 1
        ccrActive := if wrap ∧ s.act.ccrUpd = true then s.act.ccrShadow else s.act.ccrActive
        ccrUpd := if wrap then false else s.act.ccrUpd
        hbDt := if s.act.hbPhase = .deadtime then min (s.act.hbDt + 1) ((2 * s.params.tickHz + 999) / 1000)
          else s.act.hbDt }
      fr := { s.fr with
        wcnt := if s.fr.wkind ≠ .none then min (s.fr.wcnt + 1) s.fr.wneed else s.fr.wcnt } })

/-- 46_actuation_engine.md R171: while the toggle timer runs and nothing restarts it, TOG_CNT counts modulo the half-period
`TOG_RELOAD + P_RELOAD_OFFSET`; no event comes before the half-period is full, and the tick that fills one sets
TOGGLE_PENDING. -/
def Obligations.ToggleEventEveryHalfPeriod : Prop :=
  ∀ (s s' : State) (ts : List Turn), s.Inv → s.act.togRun = true → Undisturbed ts → play ts s = .next s' →
    s'.act.togRun = true ∧ s'.act.togReload = s.act.togReload ∧
    s'.act.togCnt = (s.act.togCnt + ts.count .tick) % (s.act.togReload + s.params.reloadOffset) ∧
    (s.act.togCnt + ts.count .tick < s.act.togReload + s.params.reloadOffset → s.act.togglePending = false →
      s'.act.togglePending = false) ∧
    (∀ s'' : State, play [.tick] s' = .next s'' →
      (s.act.togCnt + ts.count .tick + 1) % (s.act.togReload + s.params.reloadOffset) = 0 →
      s''.act.togglePending = true)

/-- 46_actuation_engine.md R180, R181, 70_reset_and_hazards.md R231: a waiting compare value is in effect after any schedule
without a host turn or a RESET that holds P_PWM_PERIOD + 1 ticks, and stays there; until it is loaded the old value
stands. -/
def Obligations.NewDutyTakesEffectWithinOneCycle : Prop :=
  ∀ (s s' : State) (ts : List Turn), s.act.pwmCnt ≤ s.params.pwmPeriod → s.act.ccrUpd = true → Undisturbed ts →
    play ts s = .next s' →
    (s.params.pwmPeriod + 1 ≤ ts.count .tick → s'.act.ccrUpd = false) ∧
    (s'.act.ccrUpd = false → s'.act.ccrActive = s.act.ccrShadow) ∧
    (s'.act.ccrUpd = true → s'.act.ccrActive = s.act.ccrActive)

/-- 46_actuation_engine.md R180: the compare loader's turn loads a waiting value; where none waits its step is not enabled,
and a turn taken all the same changes nothing (the model's reading, log 4). -/
def Obligations.CompareLoaderLoadsAWaitingValue : Prop :=
  ∀ s : State,
    (s.act.ccrUpd = true → runTurn .loader s = .next { s with
      act := { s.act with ccrActive := s.act.ccrShadow, ccrUpd := false } }) ∧
    (s.act.ccrUpd = false → runTurn .loader s = .next s)

/-- 46_actuation_engine.md R174, R175, R176: the handler's three steps, each exactly where it is enabled; where none is, a
turn taken all the same changes nothing (the model's reading, log 4). -/
def Obligations.HandlerClaimsConsumesAndDrives : Prop :=
  ∀ s : State,
    (s.act.hbPhase = .idle → s.act.togglePending = true →
      runTurn .handler s = .next { s with act := { s.act with hbPhase := .claim } }) ∧
    (s.act.hbPhase = .idle → s.act.togglePending = false → runTurn .handler s = .next s) ∧
    (s.act.hbPhase = .claim → runTurn .handler s = .next { s with act := { s.act with
      togglePending := false
      hbTarget := if s.act.outA = true ∧ s.act.outB = false then .bFwd else .aFwd
      outA := false
      outB := false
      hbDt := 0
      hbPhase := .deadtime } }) ∧
    (s.act.hbPhase = .deadtime → (2 * s.params.tickHz + 999) / 1000 ≤ s.act.hbDt →
      runTurn .handler s = .next { s with act := { s.act with
        outA := decide (s.act.hbTarget = .aFwd)
        outB := decide (s.act.hbTarget = .bFwd)
        hbPhase := .idle } }) ∧
    (s.act.hbPhase = .deadtime → s.act.hbDt < (2 * s.params.tickHz + 999) / 1000 → runTurn .handler s = .next s)

/-- 46_actuation_engine.md R175, 70_reset_and_hazards.md R230: a timer event between the claim and the consume is lost; the
same event after the consume stays pending. -/
def Obligations.EventInTheClaimWindowIsLost : Prop :=
  ∀ s : State, s.act.hbPhase = .claim → s.act.togRun = true →
    s.act.togReload + s.params.reloadOffset ≤ s.act.togCnt + 1 →
    (∃ t, play [.tick, .handler] s = .next t ∧ t.act.togglePending = false ∧ t.act.hbPhase = .deadtime) ∧
    (∃ t, play [.handler, .tick] s = .next t ∧ t.act.togglePending = true ∧ t.act.hbPhase = .deadtime)

/-- 46_actuation_engine.md R179 items 1 to 3 (an inference the rule marks as derived): one guarded toggle ends in A-forward
from both outputs low and from B-forward, and in B-forward from A-forward; the outputs are low throughout the dead
time. -/
def Obligations.GuardedToggleFollowsTheDirectionSequence : Prop :=
  ∀ (s : State) (mid : List Turn), s.Inv → s.act.hbPhase = .idle → s.act.togglePending = true →
    Undisturbed mid → .handler ∉ mid → dtTicks s.params ≤ mid.count .tick →
    ∃ t s', play ([.handler, .handler] ++ mid) s = .next t ∧ t.act.outA = false ∧ t.act.outB = false ∧
      play ([.handler, .handler] ++ mid ++ [.handler]) s = .next s' ∧ s'.act.hbPhase = .idle ∧
      dirOf s'.act.outA s'.act.outB =
        (if dirOf s.act.outA s.act.outB = some .aFwd then some .bFwd else some .aFwd)

/-- 46_actuation_engine.md R179 item 4 with R176 (an inference the rule marks as derived): from the start of a dead time,
whatever any agent but RESET does, the outputs are low until at least DT_TICKS ticks have come. -/
def Obligations.DeadTimeLastsItsTicks : Prop :=
  ∀ (s s' : State) (ts : List Turn), s.act.hbPhase = .deadtime → s.act.hbDt = 0 → s.act.outA = false →
    s.act.outB = false → .reset ∉ ts → play ts s = .next s' → (s'.act.outA = true ∨ s'.act.outB = true) →
    dtTicks s.params ≤ ts.count .tick

/-- 46_actuation_engine.md R174 to R176: the outputs change in only three ways: RESET and the consume step drive both low;
the drive step, from a dead time that has lasted DT_TICKS, drives HB_TARGET. -/
def Obligations.OutputsChangeOnlyThroughTheHandler : Prop :=
  ∀ s s' : State, step s = .next s' → (s'.act.outA, s'.act.outB) ≠ (s.act.outA, s.act.outB) →
    s.nextTurn = .reset ∨
    (s.nextTurn = .handler ∧ s.act.hbPhase = .claim ∧ s'.act.outA = false ∧ s'.act.outB = false) ∨
    (s.nextTurn = .handler ∧ s.act.hbPhase = .deadtime ∧ dtTicks s.params ≤ s.act.hbDt ∧
      dirOf s'.act.outA s'.act.outB = some s.act.hbTarget)

/-- 10_state.md R35, 46_actuation_engine.md R171: only the toggle timer's wrap sets TOGGLE_PENDING, and only the consume
step and RESET clear it. -/
def Obligations.OnlyTheTimerSetsThePendingFlag : Prop :=
  ∀ s s' : State, step s = .next s' →
    (s.act.togglePending = false → s'.act.togglePending = true →
      s.nextTurn = .tick ∧ s.act.togRun = true ∧ s.act.togReload + s.params.reloadOffset ≤ s.act.togCnt + 1) ∧
    (s.act.togglePending = true → s'.act.togglePending = false →
      s.nextTurn = .reset ∨ (s.nextTurn = .handler ∧ s.act.hbPhase = .claim))

/-! ### Reset, invariants, separation -/

/-- 70_reset_and_hazards.md R220, R221: the RESET step puts every element of both groups at its reset value, at any point,
and does nothing else; the host registers then read as R220 lists them (a list the rule marks as derived). -/
def Obligations.ResetSetsEveryElement : Prop :=
  ∀ s : State,
    (let stopped : Prop := s.params.resetToggleHz = 0
    let rel : Nat := min (max (s.params.tickHz / (2 * s.params.resetToggleHz.toNat)) 1) s.params.toggleReloadMax
    ∃ t, runTurn .reset s = .next t ∧
      t = { s with
        fr := { busy := false, err := .none, ovr := false, ill := false, idmm := false, result := 0, pc := 0,
                attempt := 1, wkind := .none, wcnt := 0, wneed := 0, v0 := 0, v1 := 0, opc := 0, a := 0, d := 0 }
        act := { duty := 0, ccrActive := 0, ccrShadow := 0, ccrUpd := false, pwmCnt := 0,
                 togHz := s.params.resetToggleHz, togReload := if stopped then 0 else rel, togCnt := 0,
                 togRun := decide ¬stopped, togglePending := false, outA := false, outB := false,
                 hbPhase := .idle, hbTarget := .aFwd, hbDt := 0 } } ∧
      hostRegister t 0x00 = some 0 ∧ hostRegister t 0x04 = some 0 ∧ hostRegister t 0x08 = some 0 ∧
      hostRegister t 0x0C = some (if stopped then 0x00000000 else 0x00000008) ∧
      hostRegister t 0x10 = some (BitVec.ofNat 32 s.params.resetToggleHz.toNat) ∧
      hostRegister t 0x14 = some (BitVec.ofNat 32 (if stopped then 0 else rel)) ∧
      hostRegister t 0x18 = some 0 ∧ hostRegister t 0x1C = some 0)

/-- 10_state.md R43: the invariant holds after reset, for every board. -/
def Obligations.InvariantHoldsAtReset : Prop :=
  State.reset.Inv ∧ ∀ p : Params, p.Valid → (State.powerOn p).Inv

/-- 10_state.md R43 lines 1 to 8 and R45, with R25, R27, R32, R33, R200 (derived there): every step of every agent keeps the
invariant, so it holds in every state reachable from reset, for every board, host, oracle and schedule. -/
def Obligations.EveryStepKeepsTheInvariant : Prop :=
  ∀ s s' : State, s.Inv → step s = .next s' → s'.Inv

/-- 60_exceptions.md R204, 20_memory.md R61: from a state with the invariant no step faults, and a step is refused only
where the host makes an access R61 refuses. -/
def Obligations.OnlyRefusedHostAccessesStop : Prop :=
  ∀ s : State, s.Inv →
    (∀ r, step s ≠ .fault r) ∧
    (∀ r, step s = .refused r → s.nextTurn = .host ∧
      ∃ off bytes, ((∃ v, s.afterTurn.nextHostStep = .wr off bytes v) ∨
          (∃ n, s.afterTurn.nextHostStep = .rd off bytes n)) ∧
        (bytes ≠ 4 ∨ off % 4 ≠ 0 ∨ 0x1C < off))

/-- 10_state.md R24: OVR and ILL never go back to 0 except by RESET; OVR is set only by a framer command's word while
BUSY = 1, ILL only by an illegal word. -/
def Obligations.StickyBitsStay : Prop :=
  ∀ s s' : State, step s = .next s' → s.nextTurn ≠ .reset →
    (s.fr.ovr = true → s'.fr.ovr = true) ∧ (s.fr.ill = true → s'.fr.ill = true) ∧
    (s.fr.ovr = false → s'.fr.ovr = true → s.nextTurn = .host ∧ s.fr.busy = true ∧
      ∃ v i, s.afterTurn.nextHostStep = .wr 0x00 4 v ∧ decode v = .ok i ∧ isFramerCommand i = true) ∧
    (s.fr.ill = false → s'.fr.ill = true → s.nextTurn = .host ∧
      ∃ v e, s.afterTurn.nextHostStep = .wr 0x00 4 v ∧ decode v = .error e)

/-- 10_state.md R20: two machines that agree on the parameters, the actuation group and the host's program (without
WAITIDLE, whose length depends on BUSY) keep agreeing on the actuation group under one schedule, whatever their framers
hold and the oracle answers. -/
def Obligations.ActuationIgnoresTheFramer : Prop :=
  ∀ (s1 s2 s1' s2' : State) (ts : List Turn), s1.params = s2.params → s1.act = s2.act →
    s1.env.hostProg = s2.env.hostProg → ts.count .host ≤ s1.env.hostProg.length → .waitIdle ∉ s1.env.hostProg →
    play ts s1 = .next s1' → play ts s2 = .next s2' → s1'.act = s2'.act

/-- 10_state.md R20: two machines that agree on the parameters, the framer group, the bus history, the listed answers and
the host's program keep agreeing on the framer group and the bus history under one schedule, whatever their actuation
groups hold. -/
def Obligations.FramerIgnoresTheActuation : Prop :=
  ∀ (s1 s2 s1' s2' : State) (ts : List Turn), s1.params = s2.params → s1.fr = s2.fr → s1.busHist = s2.busHist →
    s1.env.oracle = s2.env.oracle → s1.env.hostProg = s2.env.hostProg → ts.count .host ≤ s1.env.hostProg.length →
    play ts s1 = .next s1' → play ts s2 = .next s2' → s1'.fr = s2'.fr ∧ s1'.busHist = s2'.busHist

/-! ### The host's registers and syntax -/

/-- 20_memory.md R61: a host turn at a write to CMD issues the word (R80, R89); at an aligned 32-bit read of a register it
returns the register and changes nothing of the block; at a write to a read-only register it has no effect; at every other
access it is refused. So a write to CMD is the only access with an effect. In each case the access is taken off the
host's program (log 6). What a read returned is the model's own record (log 7); the refusals' names, and the width being
checked before the offset, are the model's (log 11). A step is such a turn by `StepGivesTheListedTurn`. -/
def Obligations.HostAccessesFollowTheRegisterMap : Prop :=
  ∀ (s : State) (off bytes : Nat),
    (let t : State := { s with env := { s.env with hostProg := s.env.hostProg.tail } }
    (∀ v : Word, s.nextHostStep = .wr off bytes v →
      (bytes = 4 → off = 0x00 →
        (∀ i, decode v = .ok i → runTurn .host s = exec i t) ∧
        (∀ e, decode v = .error e → runTurn .host s = .next { t with fr := { s.fr with ill := true } })) ∧
      (bytes = 4 → off ∈ [0x04, 0x08, 0x0C, 0x10, 0x14, 0x18, 0x1C] → runTurn .host s = .next t) ∧
      (bytes = 4 → off ∉ [0x00, 0x04, 0x08, 0x0C, 0x10, 0x14, 0x18, 0x1C] →
        runTurn .host s = .refused (.hostOffset off)) ∧
      (bytes ≠ 4 → runTurn .host s = .refused (.hostWidth bytes))) ∧
    (∀ name : String, s.nextHostStep = .rd off bytes name →
      (bytes = 4 → off ∈ [0x00, 0x04, 0x08, 0x0C, 0x10, 0x14, 0x18, 0x1C] →
        ∃ w, hostRegister s off = some w ∧ (off = 0x00 → w = 0) ∧
          runTurn .host s = .next { t with hostReads := s.hostReads ++ [⟨name, w⟩] }) ∧
      (bytes = 4 → off ∉ [0x00, 0x04, 0x08, 0x0C, 0x10, 0x14, 0x18, 0x1C] →
        runTurn .host s = .refused (.hostOffset off)) ∧
      (bytes ≠ 4 → runTurn .host s = .refused (.hostWidth bytes))))

/-- 10_state.md R21, R22, 60_exceptions.md R200: FR_STATUS as a number, its fields at their bits and the reserved bits 0;
the RESULT register is RESULT. -/
def Obligations.FrStatusShowsItsFields : Prop :=
  ∀ s : State,
    hostRegister s 0x08 = some s.fr.result ∧
    ∃ w, hostRegister s 0x04 = some w ∧
      w.toNat = s.fr.busy.toNat + 16 * s.fr.err.code.toNat + 256 * s.fr.ovr.toNat + 512 * s.fr.ill.toNat +
        1024 * s.fr.idmm.toNat ∧
      (s.fr.err = .none → s.fr.err.code = 0) ∧ (s.fr.err = .busError → s.fr.err.code = 1) ∧
      (s.fr.err = .invalidParam → s.fr.err.code = 2)

/-- 10_state.md R38 with R32, R34, R37: ACT_STATUS as a number, its fields at their bits and the reserved bits 0. -/
def Obligations.ActStatusShowsItsFields : Prop :=
  ∀ s : State, ∃ w, hostRegister s 0x0C = some w ∧
    w.toNat = s.act.outA.toNat + 2 * s.act.outB.toNat + 4 * s.act.togglePending.toNat + 8 * s.act.togRun.toNat +
      16 * (match s.act.hbPhase with | .idle => 0 | .claim => 1 | .deadtime => 2) +
      64 * (if s.act.outA = true ∧ s.act.outB = false then 1
        else if s.act.outA = false ∧ s.act.outB = true then 2 else 0) +
      256 * (if s.act.pwmCnt < s.act.ccrActive then 1 else 0) + 65536 * s.act.duty.toNat +
      16777216 * (if s.act.togglePending = true then 1 else if s.act.hbPhase = .idle then 0 else 2)

/-- 10_state.md R39: from a state with the invariant the four numeric registers read as the whole values, CCR_UPD at bit 31
of PWM_CCR_NEXT. -/
def Obligations.NumericRegistersShowWholeValues : Prop :=
  ∀ s : State, s.Inv →
    (∃ w, hostRegister s 0x10 = some w ∧ w.toNat = s.act.togHz.toNat) ∧
    (∃ w, hostRegister s 0x14 = some w ∧ w.toNat = s.act.togReload) ∧
    (∃ w, hostRegister s 0x18 = some w ∧ w.toNat = s.act.ccrActive) ∧
    (∃ w, hostRegister s 0x1C = some w ∧ w.toNat = s.act.ccrShadow + 2147483648 * s.act.ccrUpd.toNat)

/-- 30_encoding.md R94: a host turn at WAITIDLE reads FR_STATUS, stays there while BUSY = 1 and goes on once BUSY = 0; it
changes nothing of the block (one read a turn is the model's choice, log 13). -/
def Obligations.WaitIdleLoopsWhileBusy : Prop :=
  ∀ (s : State) (hp : List HostStep), s.env.hostProg = .waitIdle :: hp →
    ∃ w, hostRegister s 0x04 = some w ∧
      (s.fr.busy = true → runTurn .host s = .next { s with hostReads := s.hostReads ++ [⟨"s", w⟩] }) ∧
      (s.fr.busy = false → runTurn .host s = .next { s with
        hostReads := s.hostReads ++ [⟨"s", w⟩]
        env := { s.env with hostProg := hp } })

/-- 30_encoding.md R85, 20_memory.md R63: the 28-bit result as a number; the high half's bits 15:12 do not matter, and bits
31:28 are 0. -/
def Obligations.RawResultIsTwentyEightBits : Prop :=
  ∀ hi lo : Half, (raw28 hi lo).toNat = hi.toNat % 4096 * 65536 + lo.toNat ∧ (raw28 hi lo).toNat ≤ 2 ^ 28 - 1

/-- 00_scope.md R8, R6: a delay of `m` ms in ticks is the least number of ticks that is not shorter than it; with a legal
tick rate it is at least `m` ticks. -/
def Obligations.MsTicksIsTheCeiling : Prop :=
  ∀ (p : Params) (m : Nat),
    m * p.tickHz ≤ msTicks p m * 1000 ∧ (∀ k, m * p.tickHz ≤ k * 1000 → msTicks p m ≤ k) ∧
      (1000 ≤ p.tickHz → m ≤ msTicks p m)

/-- 30_encoding.md R96: a line that is a decimal integer 0 to 100 issues SETDUTY of it, above 100 it is rejected; `f` or
`F` and a decimal integer issues SETHZ of it from 1 to 16777215, and is rejected at 0 and above. -/
def Obligations.CommandLineNumbersIssueTheirCommand : Prop :=
  ∀ (n : Nat) (c : Char), c = 'f' ∨ c = 'F' →
    parseLine (Nat.toDigits 10 n) = (if n ≤ 100 then .command (.setduty n) else .rejected) ∧
    parseLine (c :: Nat.toDigits 10 n) =
      (if 1 ≤ n ∧ n ≤ 16777215 then .command (.sethz (BitVec.ofNat 24 n)) else .rejected)

/-- 30_encoding.md R96: whatever the line, at most one command is issued, and it is SETDUTY of 0 to 100 or SETHZ of a
nonzero frequency; it assembles; and a line with a space or a sign in it issues none. -/
def Obligations.CommandLineIssuesOnlySetters : Prop :=
  ∀ (line : List Char) (i : Instr), parseLine line = .command i →
    ((∃ n : Nat, n ≤ 100 ∧ i = .setduty n) ∨ (∃ hz : BitVec 24, hz ≠ 0 ∧ i = .sethz hz)) ∧
    lineSteps (.command i) = [.wr 0x00 4 (encode i)] ∧ ' ' ∉ line ∧ '-' ∉ line ∧ '+' ∉ line

/-- 30_encoding.md R92: the assembler's text of each command gives the word of R92's table where the operands are in range,
and no word where one is not. A number `n` may stand there as any text of it: decimal, or hexadecimal with `0x` (either
case of the digits, and the spaces around an operand, are the model's choice, log 19). -/
def Obligations.AssemblerTakesOperandsInRange : Prop :=
  (∀ (n m : Nat) (tn tm : List Char), tn ∈ numberTexts n → tm ∈ numberTexts m →
    assembleLine (['W', 'R', 'R', 'E', 'G', ' '] ++ tn ++ [',', ' '] ++ tm) =
      (if n ≤ 255 ∧ m ≤ 65535 then some (BitVec.ofNat 32 (0x10000000 + 65536 * n + m)) else none) ∧
    assembleLine (['R', 'D', 'R', 'E', 'G', ' '] ++ tn) =
      (if n ≤ 255 then some (BitVec.ofNat 32 (0x20000000 + 65536 * n)) else none) ∧
    assembleLine (['R', 'D', 'R', 'E', 'S', ' '] ++ tn) =
      (if n ≤ 255 then some (BitVec.ofNat 32 (0x30000000 + 65536 * n)) else none) ∧
    assembleLine (['S', 'E', 'T', 'D', 'U', 'T', 'Y', ' '] ++ tn) =
      (if n ≤ 32767 then some (BitVec.ofNat 32 (0x80000000 + n)) else none) ∧
    assembleLine (['S', 'E', 'T', 'D', 'U', 'T', 'Y', ' ', '-'] ++ tn) =
      (if n ≤ 32768 then some (BitVec.ofNat 32 (0x80000000 + (65536 - n) % 65536)) else none) ∧
    assembleLine (['S', 'E', 'T', 'H', 'Z', ' '] ++ tn) =
      (if n ≤ 16777215 then some (BitVec.ofNat 32 (0x90000000 + n)) else none)) ∧
  assembleLine ['R', 'D', 'I', 'D'] = some 0x40000000 ∧
  assembleLine ['D', 'E', 'V', 'R', 'S', 'T'] = some 0x50000000 ∧
  assembleLine ['I', 'N', 'I', 'T'] = some 0x60000000

/-- 40_bus_transport.md R110, 41_register_protocol.md R123, R128, R130, 20_memory.md R71 item 2: while a framer command
runs, whatever the answers and the schedule, every attempt, successful or not, is one of the primitive that follows, in
its program, those that have succeeded; all have succeeded once the command has ended without an error. So a retry repeats
the failed primitive alone, an RDRES that fails on the high half sends nothing of the low half, and an INIT that fails on
the identity read sends no configuration write. -/
def Obligations.EveryAttemptIsOfTheNextPrimitive : Prop :=
  ∀ (s s' : State) (ts : List Turn), s.Inv → s.fr.busy = true → s.fr.pc = 0 → s.fr.wkind = .none →
    s.fr.err = .none → Undisturbed ts → play ts s = .next s' →
    ∃ new, s'.busHist = s.busHist ++ new ∧
      (∀ pre e post, new = pre ++ e :: post → ∃ m,
        (primitives (prog s.params s.fr.opc s.fr.a s.fr.d))[pre.countP succeeded]? = some m ∧
          isAttemptOf m e = true) ∧
      (s'.fr.busy = false → s'.fr.err = .none →
        new.countP succeeded = (primitives (prog s.params s.fr.opc s.fr.a s.fr.d)).length)
end

