-- ==== Sys2Proof/Laws/Config.lean ====
section
/-! SUPPORT. The parameters: every record brought into R6's ranges is valid, and a valid one is left as it is
(spec/00_scope.md R6). -/

namespace Sys2Proof.Config

theorem Params.inRange_valid (p : Params) : p.inRange.Valid := by
  refine ⟨?_, ?_, ?_, ?_, ?_, ?_, ?_⟩ <;> simp only [Params.inRange]
  · omega
  · omega
  · split <;> simp_all
  · omega
  · omega
  · omega
  · omega

theorem Params.inRange_eq (p : Params) (h : p.Valid) : p.inRange = p := by
  obtain ⟨h1, h2, h3, h4, ⟨h5, h5'⟩, h6, ⟨h7, h7'⟩⟩ := h
  simp only [Params.inRange, h3, if_true, max_eq_right h1, max_eq_right h2, max_eq_right h4, max_eq_right h5,
    max_eq_right h7, min_eq_left h5', min_eq_left h6, min_eq_left h7']

theorem params_valid : params.Valid := board.inRange_valid

end Sys2Proof.Config
end

