-- ==== Sys2Proof/Laws/State.lean ====
section
/-! SUPPORT. One lemma per field per state update, true by rfl, so that no proof unfolds a record update; and what
each input-taking operation leaves alone. -/

namespace Sys2Proof.Machine

open Sys2Proof.Config

variable (s : State)

@[simp] theorem State.withFr_params (f : Framer) : (s.withFr f).params = s.params := rfl

@[simp] theorem State.withFr_fr (f : Framer) : (s.withFr f).fr = f := rfl

@[simp] theorem State.withFr_act (f : Framer) : (s.withFr f).act = s.act := rfl

@[simp] theorem State.withFr_busHist (f : Framer) : (s.withFr f).busHist = s.busHist := rfl

@[simp] theorem State.withFr_hostReads (f : Framer) : (s.withFr f).hostReads = s.hostReads := rfl

@[simp] theorem State.withFr_env (f : Framer) : (s.withFr f).env = s.env := rfl

@[simp] theorem State.withAct_params (g : Actuation) : (s.withAct g).params = s.params := rfl

@[simp] theorem State.withAct_fr (g : Actuation) : (s.withAct g).fr = s.fr := rfl

@[simp] theorem State.withAct_act (g : Actuation) : (s.withAct g).act = g := rfl

@[simp] theorem State.withAct_busHist (g : Actuation) : (s.withAct g).busHist = s.busHist := rfl

@[simp] theorem State.withAct_hostReads (g : Actuation) : (s.withAct g).hostReads = s.hostReads := rfl

@[simp] theorem State.withAct_env (g : Actuation) : (s.withAct g).env = s.env := rfl

@[simp] theorem State.withEnv_params (e : Env) : (s.withEnv e).params = s.params := rfl

@[simp] theorem State.withEnv_fr (e : Env) : (s.withEnv e).fr = s.fr := rfl

@[simp] theorem State.withEnv_act (e : Env) : (s.withEnv e).act = s.act := rfl

@[simp] theorem State.withEnv_busHist (e : Env) : (s.withEnv e).busHist = s.busHist := rfl

@[simp] theorem State.withEnv_hostReads (e : Env) : (s.withEnv e).hostReads = s.hostReads := rfl

@[simp] theorem State.withEnv_env (e : Env) : (s.withEnv e).env = e := rfl

@[simp] theorem State.logBus_params (e : BusEvent) : (s.logBus e).params = s.params := rfl

@[simp] theorem State.logBus_fr (e : BusEvent) : (s.logBus e).fr = s.fr := rfl

@[simp] theorem State.logBus_act (e : BusEvent) : (s.logBus e).act = s.act := rfl

@[simp] theorem State.logBus_busHist (e : BusEvent) : (s.logBus e).busHist = s.busHist ++ [e] := rfl

@[simp] theorem State.logBus_hostReads (e : BusEvent) : (s.logBus e).hostReads = s.hostReads := rfl

@[simp] theorem State.logBus_env (e : BusEvent) : (s.logBus e).env = s.env := rfl

@[simp] theorem State.logRead_params (r : HostRead) : (s.logRead r).params = s.params := rfl

@[simp] theorem State.logRead_fr (r : HostRead) : (s.logRead r).fr = s.fr := rfl

@[simp] theorem State.logRead_act (r : HostRead) : (s.logRead r).act = s.act := rfl

@[simp] theorem State.logRead_busHist (r : HostRead) : (s.logRead r).busHist = s.busHist := rfl

@[simp] theorem State.logRead_hostReads (r : HostRead) : (s.logRead r).hostReads = s.hostReads ++ [r] := rfl

@[simp] theorem State.logRead_env (r : HostRead) : (s.logRead r).env = s.env := rfl

@[simp] theorem State.afterTurn_params : s.afterTurn.params = s.params := rfl

@[simp] theorem State.afterTurn_fr : s.afterTurn.fr = s.fr := rfl

@[simp] theorem State.afterTurn_act : s.afterTurn.act = s.act := rfl

@[simp] theorem State.afterTurn_busHist : s.afterTurn.busHist = s.busHist := rfl

@[simp] theorem State.afterTurn_hostReads : s.afterTurn.hostReads = s.hostReads := rfl

@[simp] theorem State.afterHostStep_params : s.afterHostStep.params = s.params := rfl

@[simp] theorem State.afterHostStep_fr : s.afterHostStep.fr = s.fr := rfl

@[simp] theorem State.afterHostStep_act : s.afterHostStep.act = s.act := rfl

@[simp] theorem State.afterHostStep_busHist : s.afterHostStep.busHist = s.busHist := rfl

@[simp] theorem State.afterHostStep_hostReads : s.afterHostStep.hostReads = s.hostReads := rfl

@[simp] theorem State.afterAnswer_params : s.afterAnswer.params = s.params := rfl

@[simp] theorem State.afterAnswer_fr : s.afterAnswer.fr = s.fr := rfl

@[simp] theorem State.afterAnswer_act : s.afterAnswer.act = s.act := rfl

@[simp] theorem State.afterAnswer_busHist : s.afterAnswer.busHist = s.busHist := rfl

@[simp] theorem State.afterAnswer_hostReads : s.afterAnswer.hostReads = s.hostReads := rfl

@[simp] theorem State.repeatHostStep_params (h : HostStep) : (s.repeatHostStep h).params = s.params := rfl

@[simp] theorem State.repeatHostStep_fr (h : HostStep) : (s.repeatHostStep h).fr = s.fr := rfl

@[simp] theorem State.repeatHostStep_act (h : HostStep) : (s.repeatHostStep h).act = s.act := rfl

@[simp] theorem State.repeatHostStep_busHist (h : HostStep) : (s.repeatHostStep h).busHist = s.busHist := rfl

@[simp] theorem State.repeatHostStep_hostReads (h : HostStep) : (s.repeatHostStep h).hostReads = s.hostReads := rfl

@[simp] theorem State.afterTurn_env_hostProg : s.afterTurn.env.hostProg = s.env.hostProg := rfl

@[simp] theorem State.afterTurn_env_turns : s.afterTurn.env.turns = s.env.turns.tail := rfl

@[simp] theorem State.afterTurn_env_oracle : s.afterTurn.env.oracle = s.env.oracle := rfl

@[simp] theorem State.afterTurn_env_turnNo : s.afterTurn.env.turnNo = s.env.turnNo + 1 := rfl

@[simp] theorem State.afterHostStep_env_hostProg : s.afterHostStep.env.hostProg = s.env.hostProg.tail := rfl

@[simp] theorem State.afterHostStep_env_turns : s.afterHostStep.env.turns = s.env.turns := rfl

@[simp] theorem State.afterHostStep_env_oracle : s.afterHostStep.env.oracle = s.env.oracle := rfl

@[simp] theorem State.afterHostStep_env_turnNo : s.afterHostStep.env.turnNo = s.env.turnNo := rfl

@[simp] theorem State.afterAnswer_env_hostProg : s.afterAnswer.env.hostProg = s.env.hostProg := rfl

@[simp] theorem State.afterAnswer_env_turns : s.afterAnswer.env.turns = s.env.turns := rfl

@[simp] theorem State.afterAnswer_env_oracle : s.afterAnswer.env.oracle = s.env.oracle.tail := rfl

@[simp] theorem State.afterAnswer_env_turnNo : s.afterAnswer.env.turnNo = s.env.turnNo := rfl

@[simp] theorem State.repeatHostStep_env_hostProg (h : HostStep) : (s.repeatHostStep h).env.hostProg = h :: s.env.hostProg := rfl

@[simp] theorem State.repeatHostStep_env_turns (h : HostStep) : (s.repeatHostStep h).env.turns = s.env.turns := rfl

@[simp] theorem State.repeatHostStep_env_oracle (h : HostStep) : (s.repeatHostStep h).env.oracle = s.env.oracle := rfl

@[simp] theorem State.repeatHostStep_env_turnNo (h : HostStep) : (s.repeatHostStep h).env.turnNo = s.env.turnNo := rfl

@[simp] theorem State.busWrite_params (bytes : List Byte) : (s.busWrite bytes).params = s.params := rfl

@[simp] theorem State.busWrite_fr (bytes : List Byte) : (s.busWrite bytes).fr = s.fr := rfl

@[simp] theorem State.busWrite_act (bytes : List Byte) : (s.busWrite bytes).act = s.act := rfl

@[simp] theorem State.busWrite_hostReads (bytes : List Byte) : (s.busWrite bytes).hostReads = s.hostReads := rfl

@[simp] theorem State.busWrite_busHist (bytes : List Byte) : (s.busWrite bytes).busHist = s.busHist ++ [.bw bytes (answerOk s.nextAnswer)] := rfl

@[simp] theorem State.busWrite_env_hostProg (bytes : List Byte) : (s.busWrite bytes).env.hostProg = s.env.hostProg := rfl

@[simp] theorem State.busWrite_env_turns (bytes : List Byte) : (s.busWrite bytes).env.turns = s.env.turns := rfl

@[simp] theorem State.busWrite_env_oracle (bytes : List Byte) : (s.busWrite bytes).env.oracle = s.env.oracle.tail := rfl

@[simp] theorem State.busWrite_env_turnNo (bytes : List Byte) : (s.busWrite bytes).env.turnNo = s.env.turnNo := rfl

@[simp] theorem State.busRead_params : s.busRead.params = s.params := rfl

@[simp] theorem State.busRead_fr : s.busRead.fr = s.fr := rfl

@[simp] theorem State.busRead_act : s.busRead.act = s.act := rfl

@[simp] theorem State.busRead_hostReads : s.busRead.hostReads = s.hostReads := rfl

@[simp] theorem State.busRead_busHist : s.busRead.busHist = s.busHist ++ [.br 2 (answerBytes s.nextAnswer)] := rfl

@[simp] theorem State.busRead_env_hostProg : s.busRead.env.hostProg = s.env.hostProg := rfl

@[simp] theorem State.busRead_env_turns : s.busRead.env.turns = s.env.turns := rfl

@[simp] theorem State.busRead_env_oracle : s.busRead.env.oracle = s.env.oracle.tail := rfl

@[simp] theorem State.busRead_env_turnNo : s.busRead.env.turnNo = s.env.turnNo := rfl

end Sys2Proof.Machine
end

