-- ==== Sys2Proof/Laws/Ops.lean ====
section
/-! SUPPORT. What each shared operation can do, said once; and how a schedule is played turn by turn. -/

namespace Sys2Proof.Machine

open Sys2Proof.Config

/-! ### The command programs -/

/-- Whether a micro-operation is a FIN. -/
def isFin : MicroOp → Bool
  | .tx _ => false
  | .rx _ => false
  | .idchk => false
  | .waitSettle => false
  | .fin _ => true

/-- The last micro-operation of a list is a FIN, and no other is. -/
def finLast : List MicroOp → Bool
  | [] => true
  | [m] => isFin m
  | m :: n :: rest => !isFin m && finLast (n :: rest)

theorem finLast_getElem : ∀ (l : List MicroOp) (k : Nat) (m : MicroOp), finLast l = true → l[k]? = some m →
    (isFin m = true ↔ k + 1 = l.length)
  | [], k, m, _, h => by simp at h
  | [n], k, m, hl, h => by
    cases k with
    | zero => simp at h; subst h; simpa [finLast] using hl
    | succ k => simp at h
  | n :: n' :: rest, k, m, hl, h => by
    simp only [finLast, Bool.and_eq_true, Bool.not_eq_true'] at hl
    cases k with
    | zero => simp at h; subst h; simp [hl.1]
    | succ k =>
      have := finLast_getElem (n' :: rest) k m hl.2 (by simpa using h)
      simp only [this, List.length_cons]
      omega

theorem prog_finLast (p : Params) (opc : BitVec 4) (a : Byte) (d : Half) : finLast (prog p opc a d) = true := by
  unfold prog
  split <;> try rfl
  split <;> rfl

/-- Every program's last micro-operation is a FIN, and no other is (spec/10_state.md R25, 40_bus_transport.md
R101). -/
theorem prog_fin_iff_last (p : Params) (opc : BitVec 4) (a : Byte) (d : Half) (k : Nat) (m : MicroOp)
    (h : (prog p opc a d)[k]? = some m) : isFin m = true ↔ k + 1 = (prog p opc a d).length :=
  finLast_getElem _ k m (prog_finLast p opc a d) h

theorem current_some_lt {p : Params} {f : Framer} {m : MicroOp} (h : f.current p = some m) :
    f.pc < (f.program p).length := (List.getElem?_eq_some_iff.mp h).1

/-- A micro-operation that is no FIN has one after it. -/
theorem current_not_fin_lt {p : Params} {f : Framer} {m : MicroOp} (h : f.current p = some m)
    (hm : isFin m = false) : f.pc + 1 < (f.program p).length := by
  have h1 := current_some_lt h
  have h2 := prog_fin_iff_last p f.opc f.a f.d f.pc m h
  have h3 : f.pc + 1 ≠ (f.program p).length := fun e => by simp [h2.mpr e] at hm
  omega

/-! ### Operations on the framer group -/

/-- A failed attempt waits and tries again, or ends the command (40_bus_transport.md R104, R106). -/
theorem failedAttempt_cases (p : Params) (f : Framer) :
    (f.attempt < p.maxRetries ∧
      f.failedAttempt p = { f with wkind := .backoff, wneed := backoffTicks p, wcnt := 0 }) ∨
    (p.maxRetries ≤ f.attempt ∧
      f.failedAttempt p = { f with err := .busError, busy := false, attempt := 1, wkind := .none }) := by
  unfold Framer.failedAttempt
  split
  · exact .inl ⟨‹_›, rfl⟩
  · exact .inr ⟨by omega, rfl⟩

/-- Acceptance starts the command, or turns an RDRES of no channel away (41_register_protocol.md R120). -/
theorem accept_cases (f : Framer) (opc : BitVec 4) (a : Byte) (d : Half) :
    (opc = opRDRES ∧ channelValid a = false ∧ f.accept opc a d = { f with err := .invalidParam }) ∨
    (¬(opc = opRDRES ∧ channelValid a = false) ∧ f.accept opc a d = f.start opc a d) := by
  unfold Framer.accept
  split
  · exact .inl ⟨(‹_ ∧ _›).1, (‹_ ∧ _›).2, rfl⟩
  · exact .inr ⟨‹_›, rfl⟩

@[simp] theorem issueFramer_params (opc : BitVec 4) (a : Byte) (d : Half) (s : State) :
    (issueFramer opc a d s).params = s.params := rfl
@[simp] theorem issueFramer_act (opc : BitVec 4) (a : Byte) (d : Half) (s : State) :
    (issueFramer opc a d s).act = s.act := rfl
@[simp] theorem issueFramer_busHist (opc : BitVec 4) (a : Byte) (d : Half) (s : State) :
    (issueFramer opc a d s).busHist = s.busHist := rfl
@[simp] theorem issueFramer_hostReads (opc : BitVec 4) (a : Byte) (d : Half) (s : State) :
    (issueFramer opc a d s).hostReads = s.hostReads := rfl
@[simp] theorem issueFramer_env (opc : BitVec 4) (a : Byte) (d : Half) (s : State) :
    (issueFramer opc a d s).env = s.env := rfl
theorem issueFramer_fr (opc : BitVec 4) (a : Byte) (d : Half) (s : State) :
    (issueFramer opc a d s).fr = if s.fr.busy then s.fr.overrun else s.fr.accept opc a d := rfl

/-! ### The agents' turns -/

/-- What the framer's turn can do (40_bus_transport.md R110): nothing, the end of a wait, or its one
micro-operation. -/
theorem framerTurn_next_cases {s s' : State} (h : framerTurn s = .next s') :
    (s.fr.busy = false ∧ s' = s) ∨
    (s.fr.busy = true ∧ s.fr.wkind ≠ .none ∧ s.fr.wcnt < s.fr.wneed ∧ s' = s) ∨
    (s.fr.busy = true ∧ s.fr.wkind ≠ .none ∧ s.fr.wneed ≤ s.fr.wcnt ∧ s' = s.withFr s.fr.endWait) ∨
    (∃ m, s.fr.busy = true ∧ s.fr.wkind = .none ∧ s.fr.current s.params = some m ∧ s' = microStep m s) := by
  unfold framerTurn at h
  split at h
  · cases h; exact .inl ⟨‹_›, rfl⟩
  · have hb : s.fr.busy = true := by simpa using ‹¬s.fr.busy = false›
    split at h
    · unfold waitStep at h
      split at h
      · cases h; exact .inr (.inr (.inl ⟨hb, ‹_›, ‹_›, rfl⟩))
      · cases h; exact .inr (.inl ⟨hb, ‹_›, by omega, rfl⟩)
    · split at h
      · cases h; exact .inr (.inr (.inr ⟨_, hb, by simpa using ‹¬s.fr.wkind ≠ _›, ‹_›, rfl⟩))
      · cases h

/-- A micro-operation touches only the framer group, the bus history and the oracle's list (10_state.md R20). -/
theorem microStep_frame (m : MicroOp) (s : State) :
    (microStep m s).act = s.act ∧ (microStep m s).params = s.params ∧ (microStep m s).hostReads = s.hostReads ∧
      (microStep m s).env.hostProg = s.env.hostProg ∧ (microStep m s).env.turns = s.env.turns ∧
      (microStep m s).env.turnNo = s.env.turnNo := by
  cases m <;> exact ⟨rfl, rfl, rfl, rfl, rfl, rfl⟩

/-- What the CMD write of a command can do: it answers a next state; a framer command touches only the framer group,
an actuation command only the actuation group (30_encoding.md R80, 10_state.md R20). -/
theorem exec_next_cases (i : Instr) (s : State) :
    (∃ opc a d, exec i s = .next (issueFramer opc a d s) ∧ (opc = 1 ∨ opc = 2 ∨ opc = 3 ∨ opc = 4 ∨ opc = 5 ∨ opc = 6)) ∨
    (∃ pct, i = .setduty pct ∧ exec i s = .next (s.withAct (s.act.setDuty s.params pct))) ∨
    (∃ hz, i = .sethz hz ∧ exec i s = .next (s.withAct (s.act.setHz s.params hz))) := by
  cases i with
  | wrreg addr value => exact .inl ⟨_, _, _, rfl, by decide⟩
  | rdreg addr => exact .inl ⟨_, _, _, rfl, by decide⟩
  | rdres ch => exact .inl ⟨_, _, _, rfl, by decide⟩
  | rdid => exact .inl ⟨_, _, _, rfl, by decide⟩
  | devrst => exact .inl ⟨_, _, _, rfl, by decide⟩
  | init => exact .inl ⟨_, _, _, rfl, by decide⟩
  | setduty pct => exact .inr (.inl ⟨pct, rfl, rfl⟩)
  | sethz hz => exact .inr (.inr ⟨hz, rfl, rfl⟩)

/-- What one step of the host's program can do: a read or a WAITIDLE round changes only the model's record of the
host; a write to a read-only register changes nothing; an illegal word sets ILL; a command runs its meaning
(20_memory.md R61). -/
theorem runHostStep_next_cases {h : HostStep} {s s' : State} (e : runHostStep h s = .next s') :
    (∃ r, s' = s.logRead r) ∨ (∃ r, s' = (s.logRead r).repeatHostStep .waitIdle) ∨ s' = s ∨
    s' = s.withFr s.fr.illegal ∨ (∃ v i, h = .wr 0 4 v ∧ decode v = .ok i ∧ exec i s = .next s') := by
  cases h with
  | wr off bytes v =>
    simp only [runHostStep, memWrite] at e
    split at e
    · subst ‹bytes = 4›
      split at e
      · subst ‹off = 0›
        unfold issueWord at e
        split at e
        · cases e; exact .inr (.inr (.inr (.inl rfl)))
        · exact .inr (.inr (.inr (.inr ⟨v, _, rfl, ‹_›, e⟩)))
      · split at e
        · cases e; exact .inr (.inr (.inl rfl))
        · cases e
    · cases e
  | rd off bytes name =>
    simp only [runHostStep, memRead] at e
    split at e
    · split at e
      · cases e; exact .inl ⟨_, rfl⟩
      · cases e
    · cases e
  | waitIdle =>
    simp only [runHostStep, waitIdleStep] at e
    split at e
    · cases e; exact .inr (.inl ⟨_, rfl⟩)
    · cases e; exact .inl ⟨_, rfl⟩

/-! ### Playing a schedule -/

/-- An outcome with its next state changed by `g`. -/
def onNext (g : State → State) : Host.Outcome State Fault Refusal → Host.Outcome State Fault Refusal
  | .next s => .next (g s)
  | .fault r => .fault r
  | .refused r => .refused r

/-- `s` with its count of turns one higher. -/
def State.counted (s : State) : State := s.withEnv { s.env with turnNo := s.env.turnNo + 1 }

theorem exec_scheduled (i : Instr) (s : State) (ts : List Turn) :
    exec i (s.scheduled ts) = onNext (fun t => t.scheduled ts) (exec i s) := by
  cases i <;> rfl

/-- No turn reads or writes the schedule. -/
theorem runTurn_scheduled (t : Turn) (s : State) (ts : List Turn) :
    runTurn t (s.scheduled ts) = onNext (fun u => u.scheduled ts) (runTurn t s) := by
  cases t with
  | host =>
    have hh : (s.scheduled ts).nextHostStep = s.nextHostStep := rfl
    have ha : (s.scheduled ts).afterHostStep = s.afterHostStep.scheduled ts := rfl
    simp only [runTurn, hostTurn, hh, ha]
    generalize s.afterHostStep = u
    cases s.nextHostStep with
    | wr off bytes v =>
      simp only [runHostStep, memWrite]
      split
      · split
        · unfold issueWord
          split
          · rfl
          · exact exec_scheduled _ _ _
        · have hr : hostRegister (u.scheduled ts) off = hostRegister u off := rfl
          rw [hr]
          split <;> rfl
      · rfl
    | rd off bytes name =>
      simp only [runHostStep, memRead]
      split
      · have hr : hostRegister (u.scheduled ts) off = hostRegister u off := rfl
        rw [hr]
        split <;> rfl
      · rfl
    | waitIdle =>
      have hr : (u.scheduled ts).fr = u.fr := rfl
      simp only [runHostStep, waitIdleStep, hr]
      split <;> rfl
  | framer =>
    have hf : (s.scheduled ts).fr = s.fr := rfl
    have hp : (s.scheduled ts).params = s.params := rfl
    simp only [runTurn, framerTurn, waitStep, hf, hp]
    split
    · rfl
    · split
      · split <;> rfl
      · split
        · rename_i m _
          cases m <;> rfl
        · rfl
  | tick => rfl
  | handler => rfl
  | loader => rfl
  | reset => rfl

theorem play_nil (s : State) : play [] s = .next s := rfl

theorem run_succ_next {M : Host.Core} {k : Nat} {s s' : M.State} (h : M.step s = .next s') :
    M.run (k + 1) s = M.run k s' := by simp [Host.Core.run, h]

theorem run_succ_fault {M : Host.Core} {k : Nat} {s : M.State} {r : M.Fault} (h : M.step s = .fault r) :
    M.run (k + 1) s = .fault r := by simp [Host.Core.run, h]

theorem run_succ_refused {M : Host.Core} {k : Nat} {s : M.State} {r : M.Refusal} (h : M.step s = .refused r) :
    M.run (k + 1) s = .refused r := by simp [Host.Core.run, h]

/-- A schedule is played turn by turn. -/
theorem play_cons (t : Turn) (ts : List Turn) (s : State) :
    play (t :: ts) s =
      match runTurn t s.counted with
      | .next s' => play ts s'
      | .fault r => .fault r
      | .refused r => .refused r := by
  have h : Sys2Proof.core.step (s.scheduled (t :: ts)) = onNext (fun u => u.scheduled ts) (runTurn t s.counted) :=
    runTurn_scheduled t s.counted ts
  cases hr : runTurn t s.counted with
  | next s' => rw [hr] at h; exact run_succ_next h
  | fault r => rw [hr] at h; exact run_succ_fault h
  | refused r => rw [hr] at h; exact run_succ_refused h

@[simp] theorem State.counted_params (s : State) : s.counted.params = s.params := rfl
@[simp] theorem State.counted_fr (s : State) : s.counted.fr = s.fr := rfl
@[simp] theorem State.counted_act (s : State) : s.counted.act = s.act := rfl
@[simp] theorem State.counted_busHist (s : State) : s.counted.busHist = s.busHist := rfl
@[simp] theorem State.counted_hostReads (s : State) : s.counted.hostReads = s.hostReads := rfl
@[simp] theorem State.counted_env_oracle (s : State) : s.counted.env.oracle = s.env.oracle := rfl
@[simp] theorem State.counted_env_hostProg (s : State) : s.counted.env.hostProg = s.env.hostProg := rfl

end Sys2Proof.Machine
end

