-- ==== Sys2Proof/Laws/Word.lean ====
section
/-! SUPPORT. The command word as a number, and its fields read back (spec/30_encoding.md R81). -/

namespace Sys2Proof

theorem toNat_append_eq {m n : Nat} (x : BitVec m) (y : BitVec n) :
    (x ++ y).toNat = x.toNat * 2 ^ n + y.toNat := by
  rw [BitVec.toNat_append, ← Nat.shiftLeft_add_eq_or_of_lt y.isLt, Nat.shiftLeft_eq]

theorem wordAD_toNat (op : BitVec 4) (a : Byte) (d : Half) :
    (wordAD op a d).toNat = op.toNat * 2 ^ 28 + a.toNat * 2 ^ 16 + d.toNat := by
  change ((op ++ 0#4 ++ a ++ d : BitVec (4 + 4 + 8 + 16))).toNat = _
  simp only [toNat_append_eq, BitVec.toNat_ofNat]
  omega

theorem wordH_toNat (op : BitVec 4) (h : BitVec 24) :
    (wordH op h).toNat = op.toNat * 2 ^ 28 + h.toNat := by
  change ((op ++ 0#4 ++ h : BitVec (4 + 4 + 24))).toNat = _
  simp only [toNat_append_eq, BitVec.toNat_ofNat]
  omega

theorem fieldOP_toNat (v : Word) : (fieldOP v).toNat = v.toNat / 2 ^ 28 := by
  have := v.isLt
  simp only [fieldOP, BitVec.extractLsb'_toNat, Nat.shiftRight_eq_div_pow]
  omega

theorem fieldZ_toNat (v : Word) : (fieldZ v).toNat = v.toNat / 2 ^ 24 % 2 ^ 4 := by
  simp only [fieldZ, BitVec.extractLsb'_toNat, Nat.shiftRight_eq_div_pow]

theorem fieldA_toNat (v : Word) : (fieldA v).toNat = v.toNat / 2 ^ 16 % 2 ^ 8 := by
  simp only [fieldA, BitVec.extractLsb'_toNat, Nat.shiftRight_eq_div_pow]

theorem fieldD_toNat (v : Word) : (fieldD v).toNat = v.toNat % 2 ^ 16 := by
  simp [fieldD, BitVec.extractLsb'_toNat]

theorem fieldH_toNat (v : Word) : (fieldH v).toNat = v.toNat % 2 ^ 24 := by
  simp [fieldH, BitVec.extractLsb'_toNat]

@[simp] theorem fieldOP_wordAD (op : BitVec 4) (a : Byte) (d : Half) : fieldOP (wordAD op a d) = op := by
  apply BitVec.eq_of_toNat_eq
  have := op.isLt; have := a.isLt; have := d.isLt
  rw [fieldOP_toNat, wordAD_toNat]
  omega

@[simp] theorem fieldZ_wordAD (op : BitVec 4) (a : Byte) (d : Half) : fieldZ (wordAD op a d) = 0 := by
  apply BitVec.eq_of_toNat_eq
  have := a.isLt; have := d.isLt
  rw [fieldZ_toNat, wordAD_toNat, show (0 : BitVec 4).toNat = 0 from rfl]
  omega

@[simp] theorem fieldA_wordAD (op : BitVec 4) (a : Byte) (d : Half) : fieldA (wordAD op a d) = a := by
  apply BitVec.eq_of_toNat_eq
  have := a.isLt; have := d.isLt
  rw [fieldA_toNat, wordAD_toNat]
  omega

@[simp] theorem fieldD_wordAD (op : BitVec 4) (a : Byte) (d : Half) : fieldD (wordAD op a d) = d := by
  apply BitVec.eq_of_toNat_eq
  have := d.isLt
  rw [fieldD_toNat, wordAD_toNat]
  omega

@[simp] theorem fieldOP_wordH (op : BitVec 4) (h : BitVec 24) : fieldOP (wordH op h) = op := by
  apply BitVec.eq_of_toNat_eq
  have := op.isLt; have := h.isLt
  rw [fieldOP_toNat, wordH_toNat]
  omega

@[simp] theorem fieldZ_wordH (op : BitVec 4) (h : BitVec 24) : fieldZ (wordH op h) = 0 := by
  apply BitVec.eq_of_toNat_eq
  have := h.isLt
  rw [fieldZ_toNat, wordH_toNat, show (0 : BitVec 4).toNat = 0 from rfl]
  omega

@[simp] theorem fieldH_wordH (op : BitVec 4) (h : BitVec 24) : fieldH (wordH op h) = h := by
  apply BitVec.eq_of_toNat_eq
  have := h.isLt
  rw [fieldH_toNat, wordH_toNat]
  omega

end Sys2Proof
end

