-- ==== Sys2Proof/Laws/PerInstr.lean ====
section
/-! SUPPORT. Statements about every instruction as syntax, one lemma per constructor. -/

namespace Sys2Proof.Laws.OpcodeBits

/-- The opcode of a command (spec/30_encoding.md R83). -/
def opcode : Instr → BitVec 4
  | .wrreg _ _ => 0x1
  | .rdreg _ => 0x2
  | .rdres _ => 0x3
  | .rdid => 0x4
  | .devrst => 0x5
  | .init => 0x6
  | .setduty _ => 0x8
  | .sethz _ => 0x9

/-- The encoder puts R83's opcode in bits 31:28 and 0 in bits 27:24 (R81). -/
def Statement (i : Instr) : Prop := fieldOP (encode i) = opcode i ∧ fieldZ (encode i) = 0

theorem wrreg (addr : Byte) (value : Half) : Statement (.wrreg addr value) :=
  ⟨fieldOP_wordAD _ _ _, fieldZ_wordAD _ _ _⟩

theorem rdreg (addr : Byte) : Statement (.rdreg addr) := ⟨fieldOP_wordAD _ _ _, fieldZ_wordAD _ _ _⟩

theorem rdres (ch : Byte) : Statement (.rdres ch) := ⟨fieldOP_wordAD _ _ _, fieldZ_wordAD _ _ _⟩

theorem rdid : Statement .rdid := ⟨fieldOP_wordAD _ _ _, fieldZ_wordAD _ _ _⟩

theorem devrst : Statement .devrst := ⟨fieldOP_wordAD _ _ _, fieldZ_wordAD _ _ _⟩

theorem init : Statement .init := ⟨fieldOP_wordAD _ _ _, fieldZ_wordAD _ _ _⟩

theorem setduty (pct : Int) : Statement (.setduty pct) := ⟨fieldOP_wordAD _ _ _, fieldZ_wordAD _ _ _⟩

theorem sethz (hz : BitVec 24) : Statement (.sethz hz) := ⟨fieldOP_wordH _ _, fieldZ_wordH _ _⟩

end Sys2Proof.Laws.OpcodeBits
end

