-- ==== Sys2Proof/Laws/Text.lean ====
section
/-! SUPPORT. What the readers of text can answer: numbers (spec/30_encoding.md R92, R96), blanks and operand lists. -/

namespace Sys2Proof.Machine

/-! ### Numbers -/

theorem readDigits_append (xs ys : List Char) (acc : Nat) :
    readDigits acc (xs ++ ys) = (readDigits acc xs).bind (fun a => readDigits a ys) := by
  induction xs generalizing acc with
  | nil => rfl
  | cons x xs ih =>
    simp only [List.cons_append, readDigits]
    cases digitValue x with
    | none => rfl
    | some d => exact ih _

theorem readHexDigits_append (xs ys : List Char) (acc : Nat) :
    readHexDigits acc (xs ++ ys) = (readHexDigits acc xs).bind (fun a => readHexDigits a ys) := by
  induction xs generalizing acc with
  | nil => rfl
  | cons x xs ih =>
    simp only [List.cons_append, readHexDigits]
    cases hexDigitValue x with
    | none => rfl
    | some d => exact ih _

theorem digitValue_digitChar : ∀ d : Fin 10, digitValue (Nat.digitChar d) = some d.val := by decide

theorem hexDigitValue_digitChar : ∀ d : Fin 16, hexDigitValue (Nat.digitChar d) = some d.val := by decide

theorem hexDigitValue_digitChar_toUpper : ∀ d : Fin 16, hexDigitValue (Nat.digitChar d).toUpper = some d.val := by
  decide

theorem readDigits_toDigits (n : Nat) : readDigits 0 (Nat.toDigits 10 n) = some n := by
  induction n using Nat.strongRecOn with
  | _ n ih =>
    by_cases hn : n < 10
    · have h := digitValue_digitChar ⟨n, hn⟩
      simp only at h
      rw [Nat.toDigits_of_lt_base hn]
      simp [readDigits, h]
    · have h := digitValue_digitChar ⟨n % 10, by omega⟩
      simp only at h
      rw [Nat.toDigits_of_base_le (by omega) (by omega), readDigits_append, ih (n / 10) (by omega)]
      simp only [Option.bind_some, readDigits, h]
      congr 1
      omega

/-- Reading the hexadecimal digits of a number, each written by `f`, gives the number. -/
theorem readHexDigits_map {f : Char → Char}
    (hf : ∀ d : Fin 16, hexDigitValue (f (Nat.digitChar d)) = some d.val) (n : Nat) :
    readHexDigits 0 ((Nat.toDigits 16 n).map f) = some n := by
  induction n using Nat.strongRecOn with
  | _ n ih =>
    by_cases hn : n < 16
    · have h := hf ⟨n, hn⟩
      simp only at h
      rw [Nat.toDigits_of_lt_base hn]
      simp [readHexDigits, h]
    · have h := hf ⟨n % 16, by omega⟩
      simp only at h
      rw [Nat.toDigits_of_base_le (by omega) (by omega), List.map_append, readHexDigits_append, ih (n / 16) (by omega)]
      simp only [Option.bind_some, readHexDigits, List.map_cons, List.map_nil, h]
      congr 1
      omega

theorem decimal_eq_readDigits {cs : List Char} (h : cs ≠ []) : decimal cs = readDigits 0 cs := by
  cases cs with
  | nil => exact absurd rfl h
  | cons c cs => rfl

theorem hexadecimal_eq_readHexDigits {cs : List Char} (h : cs ≠ []) : hexadecimal cs = readHexDigits 0 cs := by
  cases cs with
  | nil => exact absurd rfl h
  | cons c cs => rfl

/-- A number's decimal digits read back as the number (R96). -/
@[simp] theorem decimal_toDigits (n : Nat) : decimal (Nat.toDigits 10 n) = some n := by
  rw [decimal_eq_readDigits (Nat.toDigits_ne_nil), readDigits_toDigits]

/-- A number's hexadecimal digits read back as the number (R92). -/
@[simp] theorem hexadecimal_toDigits (n : Nat) : hexadecimal (Nat.toDigits 16 n) = some n := by
  rw [hexadecimal_eq_readHexDigits (Nat.toDigits_ne_nil)]
  simpa using readHexDigits_map (f := id) hexDigitValue_digitChar n

/-- The same in capitals. -/
@[simp] theorem hexadecimal_toUpper (n : Nat) : hexadecimal ((Nat.toDigits 16 n).map Char.toUpper) = some n := by
  rw [hexadecimal_eq_readHexDigits (by simp [Nat.toDigits_ne_nil])]
  exact readHexDigits_map hexDigitValue_digitChar_toUpper n

/-- A character of a number's text: a hexadecimal digit of either case, or the `x` of `0x`. -/
def isNumberChar (c : Char) : Bool := (hexDigitValue c).isSome || decide (c = 'x')

theorem readHexDigits_some_chars : ∀ (cs : List Char) (acc n : Nat), readHexDigits acc cs = some n →
    ∀ c ∈ cs, (hexDigitValue c).isSome = true
  | [], _, _, _, c, hc => by simp at hc
  | x :: xs, acc, n, h, c, hc => by
    simp only [readHexDigits] at h
    split at h
    · rename_i d hd
      rcases List.mem_cons.mp hc with rfl | hc
      · simp [hd]
      · exact readHexDigits_some_chars xs _ n h c hc
    · cases h

theorem readDigits_some_chars : ∀ (cs : List Char) (acc n : Nat), readDigits acc cs = some n →
    ∀ c ∈ cs, (digitValue c).isSome = true
  | [], _, _, _, c, hc => by simp at hc
  | x :: xs, acc, n, h, c, hc => by
    simp only [readDigits] at h
    split at h
    · rename_i d hd
      rcases List.mem_cons.mp hc with rfl | hc
      · simp [hd]
      · exact readDigits_some_chars xs _ n h c hc
    · cases h

theorem hexDigitValue_of_digitValue {c : Char} (h : (digitValue c).isSome = true) :
    (hexDigitValue c).isSome = true := by
  unfold digitValue at h
  unfold hexDigitValue
  split at h
  · rw [if_pos ‹_›]; rfl
  · cases h

/-- Every text of a number reads as the number (R92). -/
theorem asmNumber_numberTexts {n : Nat} {cs : List Char} (h : cs ∈ numberTexts n) : asmNumber cs = some n := by
  simp only [numberTexts, List.mem_cons, List.not_mem_nil, or_false] at h
  rcases h with rfl | rfl | rfl
  · have hx : (Nat.toDigits 10 n).take 2 ≠ ['0', 'x'] := by
      intro e
      have hm : 'x' ∈ Nat.toDigits 10 n := List.mem_of_mem_take (i := 2) (by rw [e]; simp)
      exact absurd (readDigits_some_chars _ 0 n (readDigits_toDigits n) 'x' hm) (by decide)
    rw [asmNumber, if_neg hx, decimal_toDigits]
  · simp [asmNumber]
  · simp [asmNumber]

/-- A number's text is not empty and holds only digits and the `x` of `0x`. -/
theorem numberTexts_chars {n : Nat} {cs : List Char} (h : cs ∈ numberTexts n) :
    cs ≠ [] ∧ ∀ c ∈ cs, isNumberChar c = true := by
  simp only [numberTexts, List.mem_cons, List.not_mem_nil, or_false] at h
  rcases h with rfl | rfl | rfl
  · refine ⟨Nat.toDigits_ne_nil, fun c hc => ?_⟩
    simp [isNumberChar, hexDigitValue_of_digitValue (readDigits_some_chars _ 0 n (readDigits_toDigits n) c hc)]
  · refine ⟨by simp, fun c hc => ?_⟩
    have hd := readHexDigits_some_chars _ 0 n (readHexDigits_map (f := id) hexDigitValue_digitChar n)
    simp only [List.map_id] at hd
    rcases List.mem_cons.mp hc with rfl | hc
    · decide
    · rcases List.mem_cons.mp hc with rfl | hc
      · decide
      · simp [isNumberChar, hd c hc]
  · refine ⟨by simp, fun c hc => ?_⟩
    have hd := readHexDigits_some_chars _ 0 n (readHexDigits_map hexDigitValue_digitChar_toUpper n)
    rcases List.mem_cons.mp hc with rfl | hc
    · decide
    · rcases List.mem_cons.mp hc with rfl | hc
      · decide
      · simp [isNumberChar, hd c hc]

/-! ### Blanks and operands -/

theorem dropWhile_no_space {cs : List Char} (h : ' ' ∉ cs) : cs.dropWhile (· = ' ') = cs := by
  cases cs with
  | nil => rfl
  | cons c cs =>
    have : c ≠ ' ' := fun e => h (by simp [e])
    simp [this]

/-- A text without spaces is left as it is. -/
theorem trimSpaces_no_space {cs : List Char} (h : ' ' ∉ cs) : trimSpaces cs = cs := by
  rw [trimSpaces, dropWhile_no_space h, dropWhile_no_space (by simpa using h), List.reverse_reverse]

/-- One leading space is no part of a text. -/
theorem trimSpaces_space_cons (cs : List Char) : trimSpaces (' ' :: cs) = trimSpaces cs := by
  simp [trimSpaces]

/-- A text without a comma is one operand. -/
theorem operandsAfter_no_comma {cs : List Char} (h : ',' ∉ cs) (cur : List Char) :
    operandsAfter cur cs = [trimSpaces (cur.reverse ++ cs)] := by
  induction cs generalizing cur with
  | nil => simp [operandsAfter]
  | cons c cs ih =>
    have hc : c ≠ ',' := fun e => h (by simp [e])
    rw [operandsAfter, if_neg hc, ih (fun e => h (by simp [e]))]
    simp

/-- The text before a comma is one operand, and the rest follows. -/
theorem operandsAfter_comma {cs : List Char} (h : ',' ∉ cs) (cur rest : List Char) :
    operandsAfter cur (cs ++ ',' :: rest) = trimSpaces (cur.reverse ++ cs) :: operandsAfter [] rest := by
  induction cs generalizing cur with
  | nil => simp [operandsAfter]
  | cons c cs ih =>
    have hc : c ≠ ',' := fun e => h (by simp [e])
    rw [List.cons_append, operandsAfter, if_neg hc, ih (fun e => h (by simp [e]))]
    simp

end Sys2Proof.Machine
end

