-- ==== Sys2Proof/Tests/Slice0.lean ====
section
/-! SUPPORT. The implementer's own tests: expected values from spec/95_test_vectors.md (vector ids in the comments) or
worked by hand from the rules; then, for every obligation with hypotheses, states and operands that meet them. -/

namespace Sys2Proof.Tests

open Sys2Proof Sys2Proof.Machine Sys2Proof.Config

/-! ### Set-up -/

/-- Parameter set PS1 of 95_test_vectors.md (example values). -/
def ps1 : Params where
  devAddr := 0x2A
  maxRetries := 3
  busTimeout := 1
  resultBase := 0x00
  idAddr := 0x7F
  expectedId := 0x3055
  configAddr := 0x1A
  resetPattern := 0x8000
  clkdivAddr := ⟨0x14, 0x15, 0x16, 0x17⟩
  clkdivVal := ⟨0x1001, 0x1001, 0x1001, 0x1001⟩
  driveAddr := ⟨0x1E, 0x1F, 0x20, 0x21⟩
  driveVal := ⟨0x8800, 0x8800, 0x8800, 0x8800⟩
  settleAddr := ⟨0x10, 0x11, 0x12, 0x13⟩
  settleVal := ⟨0x000A, 0x000A, 0x000A, 0x000A⟩
  rcountAddr := ⟨0x08, 0x09, 0x0A, 0x0B⟩
  rcountVal := ⟨0xFFFF, 0xFFFF, 0xFFFF, 0xFFFF⟩
  muxAddr := 0x1B
  muxVal := 0xC20D
  configVal := 0x1E01
  statusAddr := 0x18
  tickHz := 1000000
  toggleReloadMax := 65535
  reloadOffset := 0
  pwmPeriod := 999
  resetToggleHz := 0

/-- PS1 with the slow tick of programs P4 and P5: DT_TICKS = 2, BACKOFF_TICKS = 5, SETTLE_TICKS = 10; and a PWM period
short enough to play. -/
def ps2 : Params := { ps1 with tickHz := 1000, pwmPeriod := 3 }

/-- Power-on under PS1 and PS2. -/
def s1 : State := State.powerOn ps1
def s2 : State := State.powerOn ps2

/-- The next state of an outcome, `d` if there is none. -/
def nextOr (d : State) (o : Host.Outcome State Fault Refusal) : State :=
  match o with
  | .next s => s
  | .fault _ => d
  | .refused _ => d

/-- `s` with the oracle's next answers. -/
def answering (s : State) (bs : List BusAnswer) : State := { s with env := { s.env with oracle := bs } }

/-- An answer `Ok` to a write attempt. -/
def ack : BusAnswer := .ok 0 0

/-- The state once a command has been accepted, with the oracle's next answers. -/
def begun (i : Instr) (bs : List BusAnswer) : State := answering (nextOr s2 (exec i s2)) bs

/-! ### Decoding and encoding (30_encoding.md R81 to R92) -/

-- Words written out field by field: OP, Z, A, D (V-DEC-1, 2, 5 to 8, 10, 13).
theorem test_decode_wrreg : decode 0b0001_0000_00011010_0001111000000001 = .ok (.wrreg 0x1A 0x1E01) := by decide
theorem test_decode_rdreg : decode 0b0010_0000_01111111_0000000000000000 = .ok (.rdreg 0x7F) := by decide
theorem test_decode_rdres : decode 0b0011_0000_11111111_0000000000000000 = .ok (.rdres 255) := by decide
theorem test_decode_rdid : decode 0b0100_0000_00000000_0000000000000000 = .ok .rdid := by decide
theorem test_decode_devrst : decode 0b0101_0000_00000000_0000000000000000 = .ok .devrst := by decide
theorem test_decode_init : decode 0b0110_0000_00000000_0000000000000000 = .ok .init := by decide
theorem test_decode_setduty : decode 0b1000_0000_00000000_1111111111111011 = .ok (.setduty (-5)) := by decide
theorem test_decode_sethz : decode 0b1001_0000_00000000_0000000000010100 = .ok (.sethz 20) := by decide

-- V-DEC-15 to V-DEC-24.
theorem test_decode_illegal :
    decode 0x00000000 = .error (.reservedOpcode 0) ∧ decode 0x70000000 = .error (.reservedOpcode 7) ∧
    decode 0xA0000000 = .error (.reservedOpcode 10) ∧ decode 0xF0000000 = .error (.reservedOpcode 15) ∧
    decode 0x01000000 = .error .nonzeroZ ∧ decode 0x111A1E01 = .error .nonzeroZ ∧
    decode 0x207F0001 = .error .nonzeroD ∧ decode 0x40010000 = .error .nonzeroA ∧
    decode 0x40000001 = .error .nonzeroD ∧ decode 0x60000001 = .error .nonzeroD ∧
    decode 0x80010032 = .error .nonzeroA ∧ decode 0x91000014 = .error .nonzeroZ := by decide

theorem test_encode_words :
    encode (.wrreg 0x1A 0x1E01) = 0x101A1E01 ∧ encode (.rdreg 0x7F) = 0x207F0000 ∧
    encode (.rdres 1) = 0x30010000 ∧ encode .rdid = 0x40000000 ∧ encode .devrst = 0x50000000 ∧
    encode .init = 0x60000000 ∧ encode (.setduty 150) = 0x80000096 ∧ encode (.setduty (-32768)) = 0x80008000 ∧
    encode (.sethz 16777215) = 0x90FFFFFF := by decide

theorem test_table_word : decodeTableWord 32 0x30020000 = some (.rdres 2) ∧ decodeTableWord 32 0x207F0001 = none := by
  decide

-- R92: an operand out of its range makes no word.
theorem test_ill_formed_setduty :
    (Instr.setduty 32768).wellFormed = false ∧ (Instr.setduty (-32769)).wellFormed = false ∧
    assemble (.setduty 32768) = none ∧ assemble (.setduty 32767) = some 0x80007FFF := by decide

/-! ### Arithmetic -/

-- V-RAW-1, 2, 5, 6.
theorem test_raw28 :
    raw28 0xF123 0x4567 = 0x01234567 ∧ raw28 0x0FFF 0xFFFF = 0x0FFFFFFF ∧ raw28 0x1000 0x0000 = 0 ∧
    raw28 0xA5A5 0x5A5A = 0x05A55A5A := by decide

-- V-MS-1 to V-MS-3.
theorem test_ms_ticks :
    dtTicks ps1 = 2000 ∧ backoffTicks ps1 = 5000 ∧ settleTicks ps1 = 10000 ∧
    dtTicks { ps1 with tickHz := 32768 } = 66 ∧ backoffTicks { ps1 with tickHz := 32768 } = 164 ∧
    settleTicks { ps1 with tickHz := 32768 } = 328 := by decide

-- V-HZ-1, 3, 6, 8, 9, 10.
theorem test_reload :
    reload ps1 1 = 65535 ∧ reload ps1 20 = 25000 ∧ reload ps1 500000 = 1 ∧ reload ps1 600000 = 1 ∧
    reload ps1 16777215 = 1 ∧ reload { ps1 with toggleReloadMax := 0xFFFFFFFF } 7 = 71428 := by decide

/-! ### One command word each, as the first thing after power-on -/

theorem test_wrreg_accepted :
    (nextOr s1 (step (s1.withFetchWord 32 0x101A1E01))).fr =
      { Framer.atReset with busy := true, opc := 1, a := 0x1A, d := 0x1E01 } := by decide

theorem test_rdreg_accepted :
    (nextOr s1 (step (s1.withFetchWord 32 0x207F0000))).fr = { Framer.atReset with busy := true, opc := 2, a := 0x7F } := by
  decide

-- V-DEC-3, V-DEC-4.
theorem test_rdres_accepted :
    (nextOr s1 (step (s1.withFetchWord 32 0x30020000))).fr = { Framer.atReset with busy := true, opc := 3, a := 2 } := by
  decide
theorem test_rdres_channel_4 :
    (nextOr s1 (step (s1.withFetchWord 32 0x30040000))).fr = { Framer.atReset with err := .invalidParam } := by decide

theorem test_rdid_accepted :
    (nextOr s1 (step (s1.withFetchWord 32 0x40000000))).fr = { Framer.atReset with busy := true, opc := 4 } := by decide

theorem test_devrst_accepted :
    (nextOr s1 (step (s1.withFetchWord 32 0x50000000))).fr = { Framer.atReset with busy := true, opc := 5 } := by decide

theorem test_init_accepted :
    (nextOr s1 (step (s1.withFetchWord 32 0x60000000))).fr = { Framer.atReset with busy := true, opc := 6 } := by decide

-- V-DUTY-6 (33 %), V-DUTY-5 (-5).
theorem test_setduty_33 :
    (nextOr s1 (step (s1.withFetchWord 32 0x80000021))).act =
      { Actuation.atReset ps1 with duty := 33, ccrShadow := 330, ccrUpd := true } := by decide
theorem test_setduty_negative :
    (nextOr s1 (step (s1.withFetchWord 32 0x8000FFFB))).act =
      { Actuation.atReset ps1 with duty := 0, ccrShadow := 0, ccrUpd := true } := by decide

-- V-HZ-1 (clamped), V-HZ-11 (0 keeps all).
theorem test_sethz_clamped :
    (nextOr s1 (step (s1.withFetchWord 32 0x90000001))).act =
      { Actuation.atReset ps1 with togRun := true, togReload := 65535, togHz := 1 } := by decide
theorem test_sethz_zero : (nextOr s1 (step (s1.withFetchWord 32 0x90000000))).act = Actuation.atReset ps1 := by decide

-- V-DEC-15, V-DEC-8 while busy.
theorem test_illegal_sets_ill :
    (nextOr s1 (step (s1.withFetchWord 32 0x00000000))).fr = { Framer.atReset with ill := true } := by decide
theorem test_busy_sets_ovr :
    (nextOr s1 (step ((begun (.rdreg 0x18) []).withFetchWord 32 0x60000000))).fr =
      { (begun (.rdreg 0x18) []).fr with ovr := true } := by decide

/-! ### The engines' steps -/

-- V-TICK-1, V-TICK-2.
theorem test_tick_event :
    ({ s1.act with togRun := true, togReload := 2, togCnt := 1 } : Actuation).tick ps1 =
      { s1.act with togRun := true, togReload := 2, togCnt := 0, togglePending := true, pwmCnt := 1 } := by decide
theorem test_tick_offset :
    ({ s1.act with togRun := true, togReload := 2, togCnt := 1 } : Actuation).tick { ps1 with reloadOffset := 1 } =
      { s1.act with togRun := true, togReload := 2, togCnt := 2, pwmCnt := 1 } := by decide

-- V-TICK-6.
theorem test_tick_forced_load :
    ({ s1.act with pwmCnt := 999, ccrUpd := true, ccrShadow := 500 } : Actuation).tick ps1 =
      { s1.act with pwmCnt := 0, ccrActive := 500, ccrShadow := 500 } := by decide

-- V-TGL-1 to V-TGL-4.
theorem test_next_target :
    nextTarget false false = .aFwd ∧ nextTarget true false = .bFwd ∧ nextTarget false true = .aFwd ∧
    nextTarget true true = .aFwd := by decide

-- V-ACT-3, V-ACT-5, V-ACT-6, V-ACT-8.
theorem test_act_status :
    ({ s1.act with outA := true, togRun := true, ccrActive := 1, duty := 50 } : Actuation).statusWord = 0x00320149 ∧
    ({ s1.act with togRun := true, hbPhase := .deadtime, duty := 50 } : Actuation).statusWord = 0x02320028 ∧
    ({ s1.act with togRun := true, hbPhase := .claim, togglePending := true, duty := 50 } : Actuation).statusWord =
      0x0132001C ∧
    ({ s1.act with outB := true, togRun := true, duty := 100 } : Actuation).statusWord = 0x0064008A := by decide

-- P3: ERR 1 and OVR.
theorem test_fr_status : ({ s1.fr with err := .busError, ovr := true } : Framer).statusWord = 0x00000110 := by decide

-- V-BUS-1 and the example of R102: a transmit attempt's event and its answer.
theorem test_tx_event :
    (nextOr s2 (framerTurn (begun (.wrreg 0x1A 0x1E01) [ack]))).busHist = [.bw [0x1A, 0x1E, 0x01] true] := by decide

-- The example of R103.
theorem test_rx_latch : (be16 0x30 0x55) = 0x3055 := by decide

-- V-LINE-1 to V-LINE-5, 9 to 13.
theorem test_lines :
    parseLine ['5', '0'] = .command (.setduty 50) ∧ parseLine ['f', '2', '0'] = .command (.sethz 20) ∧
    parseLine ['f', '0'] = .rejected ∧ parseLine ['a', 'b', 'c'] = .rejected ∧ parseLine ['h'] = .status ∧
    parseLine ['1', '0', '1'] = .rejected ∧ parseLine ['5', 'x'] = .rejected ∧
    parseLine ['f', ' ', '2', '0'] = .rejected ∧
    parseLine ['f', '1', '6', '7', '7', '7', '2', '1', '6'] = .rejected ∧ parseLine ['0'] = .command (.setduty 0) := by
  decide

-- 95_test_vectors.md P1 and R92: assembler text.
theorem test_assembler_text :
    assembleLine ['S', 'E', 'T', 'D', 'U', 'T', 'Y', ' ', '-', '5'] = some 0x8000FFFB ∧
    assembleLine ['W', 'R', 'R', 'E', 'G', ' ', '0', 'x', '1', 'A', ',', ' ', '0', 'x', '1', 'E', '0', '1'] =
      some 0x101A1E01 ∧
    assembleLine ['R', 'D', 'R', 'E', 'S', ' ', '2', '5', '6'] = none := by decide

-- R93, R94: host program text.
theorem test_host_text :
    hostLine ['R', 'D', ' ', '0', 'x', '0', '4', ' ', '-', '>', ' ', 's'] = some [.rd 4 4 "s"] ∧
    hostLine ['D', 'O', ' ', 'R', 'D', 'R', 'E', 'S', ' ', '1'] =
      some [.waitIdle, .wr 0 4 0x30010000, .waitIdle] := by decide

/-! ### Witnesses: states that meet the obligations' hypotheses -/

/-- A state whose groups keep their invariants, by evaluation. -/
theorem s2_inv : s2.Inv :=
  ⟨by decide, by constructor <;> decide, by constructor <;> decide⟩

/-- An accepted RDRES, about to make its first attempt. -/
def w0 : State := begun (.rdres 3) [ack, .ok 0xF1 0x23, .fail, ack, .ok 0x45 0x67]

theorem w0_inv : w0.Inv :=
  ⟨by decide, by constructor <;> decide, by constructor <;> decide⟩

theorem witness_DecodeOfEncodeIsIdentity :
    (Instr.setduty 32767).wellFormed = true ∧ (Instr.setduty (-32768)).wellFormed = true := by decide

theorem witness_LegalWordIsTheWordOfItsCommand : decode 0x80008000 = .ok (.setduty (-32768)) := by decide

/-- The host's turn at a CMD write. -/
def w1 (v : Word) : State := { s2 with env := { s2.env with turns := [.host], hostProg := [.wr 0x00 4 v] } }

theorem witness_StepGivesTheListedTurn : (w1 0).env.turns = .host :: [] := rfl

theorem witness_StepRunsTheDecodedCommand :
    (w1 0x60000000).env.turns = .host :: [] ∧ (w1 0x60000000).env.hostProg = .wr 0x00 4 0x60000000 :: [] ∧
      decode 0x60000000 = .ok .init := ⟨rfl, rfl, by decide⟩

theorem witness_IllegalWordOnlySetsIll :
    (w1 0x70000000).env.turns = .host :: [] ∧ (w1 0x70000000).env.hostProg = .wr 0x00 4 0x70000000 :: [] ∧
      decode 0x70000000 = .error (.reservedOpcode 7) := ⟨rfl, rfl, by decide⟩

theorem witness_BusyFramerDropsFramerCommands : w0.fr.busy = true ∧ isFramerCommand .init = true := by decide

theorem witness_IdleFramerAcceptsFramerCommands :
    s2.fr.busy = false ∧ (3 : Byte).toNat < 4 ∧ 4 ≤ (4 : Byte).toNat := by decide

theorem witness_ProgramsAreTheListedMicroOperations : (3 : Byte).toNat ≤ 3 := by decide

/-- `f` in place of a state's framer group. -/
def wf (s : State) (f : Framer) : State := { s with fr := f }

-- Ok; Fail below the limit, at its last value; Fail at the limit.
theorem witness_TransmitAttemptFollowsItsAnswer_ok :
    w0.fr.busy = true ∧ w0.fr.wkind = .none ∧ w0.fr.current w0.params = some (.tx [0x06]) ∧
      w0.nextAnswer = .ok 0 0 := by decide
theorem witness_TransmitAttemptFollowsItsAnswer_retry :
    let s := answering (wf w0 { w0.fr with attempt := 2 }) [.fail]
    s.fr.busy = true ∧ s.fr.wkind = .none ∧ s.fr.current s.params = some (.tx [0x06]) ∧ s.nextAnswer = .fail ∧
      s.fr.attempt < s.params.maxRetries := by decide
theorem witness_TransmitAttemptFollowsItsAnswer_final :
    let s := answering (wf w0 { w0.fr with attempt := 3 }) [.fail]
    s.fr.busy = true ∧ s.fr.wkind = .none ∧ s.fr.current s.params = some (.tx [0x06]) ∧ s.nextAnswer = .fail ∧
      s.fr.attempt = s.params.maxRetries := by decide

theorem witness_ReceiveAttemptFollowsItsAnswer_ok :
    let s := answering (wf w0 { w0.fr with pc := 3 }) [.ok 0xFF 0x00]
    s.fr.busy = true ∧ s.fr.wkind = .none ∧ s.fr.current s.params = some (.rx .v1) ∧
      s.nextAnswer = .ok 0xFF 0x00 := by decide
theorem witness_ReceiveAttemptFollowsItsAnswer_retry :
    let s := answering (wf w0 { w0.fr with pc := 1, attempt := 2 }) [.fail]
    s.fr.busy = true ∧ s.fr.wkind = .none ∧ s.fr.current s.params = some (.rx .v0) ∧ s.nextAnswer = .fail ∧
      s.fr.attempt < s.params.maxRetries := by decide
theorem witness_ReceiveAttemptFollowsItsAnswer_final :
    let s := answering (wf w0 { w0.fr with pc := 1, attempt := 3 }) [.fail]
    s.fr.busy = true ∧ s.fr.wkind = .none ∧ s.fr.current s.params = some (.rx .v0) ∧ s.nextAnswer = .fail ∧
      s.fr.attempt = s.params.maxRetries := by decide

/-- In a backoff, with `n` ticks elapsed. -/
def w2 (k : WaitKind) (n : Nat) : State := wf w0 { w0.fr with wkind := k, wneed := 5, wcnt := n }

theorem witness_WaitEndsOnceItsTicksHavePassed :
    ((w2 .backoff 5).fr.busy = true ∧ (w2 .backoff 5).fr.wkind = .backoff ∧
      (w2 .backoff 5).fr.wneed ≤ (w2 .backoff 5).fr.wcnt) ∧
    ((w2 .settle 5).fr.busy = true ∧ (w2 .settle 5).fr.wkind = .settle ∧
      (w2 .settle 5).fr.wneed ≤ (w2 .settle 5).fr.wcnt) ∧
    ((w2 .backoff 4).fr.busy = true ∧ (w2 .backoff 4).fr.wkind ≠ .none ∧
      (w2 .backoff 4).fr.wcnt < (w2 .backoff 4).fr.wneed) := by decide

theorem witness_FinEndsTheCommand :
    (let s := begun (.wrreg 0 0) []
    s.fr.busy = true ∧ s.fr.wkind = .none ∧
      (wf s { s.fr with pc := 1 }).fr.current s.params = some (.fin .none)) ∧
    ({ w0.fr with pc := 4 } : Framer).current w0.params = some (.fin .raw) ∧
    ({ (begun .rdid []).fr with pc := 2 } : Framer).current ps2 = some (.fin .v16) := by decide

theorem witness_IdentityCheckAndSettleSteps :
    (let s := begun .init []
    s.fr.busy = true ∧ s.fr.wkind = .none ∧ ({ s.fr with pc := 2 } : Framer).current s.params = some .idchk ∧
      ({ s.fr with pc := 21 } : Framer).current s.params = some .waitSettle) := by decide

theorem witness_RegisterReadUnderAnySchedule :
    let s := answering s2 [ack, .ok 0x30 0x55]
    s.fr.busy = false ∧ s.env.oracle = .ok 0 0 :: .ok 0x30 0x55 :: [] ∧ (0x7F : Byte) = s.params.idAddr ∧
      Undisturbed [.framer, .tick, .framer, .framer] ∧ 3 ≤ [Turn.framer, .tick, .framer, .framer].count .framer := by
  decide

theorem witness_RegisterWriteUnderAnySchedule :
    let s := answering s2 [ack]
    s.fr.busy = false ∧ s.env.oracle = .ok 0 0 :: [] ∧ (0x1A : Byte) = s.params.configAddr ∧
      (0x8000 : Half) = s.params.resetPattern ∧ Undisturbed [.framer, .framer] ∧
      2 ≤ [Turn.framer, .framer].count .framer := by decide

theorem witness_ChannelReadUnderAnySchedule :
    let s := answering s2 [ack, .ok 0xF1 0x23, ack, .ok 0x45 0x67]
    (3 : Byte).toNat ≤ 3 ∧ s.fr.busy = false ∧
      s.env.oracle = .ok 0 0 :: .ok 0xF1 0x23 :: .ok 0 0 :: .ok 0x45 0x67 :: [] ∧
      Undisturbed (List.replicate 5 .framer) ∧ 5 ≤ (List.replicate 5 Turn.framer).count .framer := by decide

theorem witness_InitUnderAnySchedule :
    let s := answering s2 (ack :: .ok 0x30 0x54 :: (List.replicate 18 ack ++ []))
    s.fr.busy = false ∧ s.env.oracle = .ok 0 0 :: .ok 0x30 0x54 :: (List.replicate 18 ack ++ []) ∧
      (List.replicate 18 ack).length = 18 ∧ (∀ x ∈ List.replicate 18 ack, x ≠ .fail) ∧
      Undisturbed (List.replicate 22 .framer) ∧ Undisturbed (List.replicate 10 .tick) ∧
      Undisturbed [.framer, .framer] ∧ 22 ≤ (List.replicate 22 Turn.framer).count .framer ∧
      settleTicks s.params ≤ (List.replicate 10 Turn.tick).count .tick ∧
      2 ≤ [Turn.framer, .framer].count .framer := by decide

theorem witness_AcknowledgedWritesFollowTheProgram :
    w0.Inv ∧ w0.fr.busy = true ∧ w0.fr.pc = 0 ∧ w0.fr.wkind = .none ∧ w0.fr.err = .none ∧
      Undisturbed [.framer, .framer, .framer] ∧ ∃ s', play [.framer, .framer, .framer] w0 = .next s' :=
  ⟨w0_inv, by decide, by decide, by decide, by decide, by decide, _, rfl⟩

-- The clause on a frame sent: a pointer set that was not acknowledged, and its retry that was.
theorem witness_AcknowledgedWritesFollowTheProgram_sent :
    let s := begun (.rdreg 0x18) [.fail, ack]
    (nextOr s (play [.framer, .tick, .tick, .tick, .tick, .tick, .framer, .framer] s)).busHist =
      s.busHist ++ ([.bw [0x18] false] ++ .bw [0x18] true :: []) := by decide

-- The clause on a command that has ended without an error.
theorem witness_AcknowledgedWritesFollowTheProgram_ended :
    let s := begun (.wrreg 0x05 0) [ack]
    s.fr.busy = true ∧ s.fr.pc = 0 ∧ s.fr.wkind = .none ∧ s.fr.err = .none ∧
      (nextOr s (play [.framer, .framer] s)).fr.busy = false ∧
      (nextOr s (play [.framer, .framer] s)).fr.err = .none := by decide

theorem witness_AttemptsAreBounded :
    w0.Inv ∧ w0.fr.busy = true ∧ w0.fr.pc = 0 ∧ w0.fr.attempt = 1 ∧ w0.fr.wkind = .none ∧
      Undisturbed [.framer, .tick] ∧ ∃ s', play [.framer, .tick] w0 = .next s' :=
  ⟨w0_inv, by decide, by decide, by decide, by decide, by decide, _, rfl⟩

theorem witness_RoundRobinEndsEveryCommand : w0.Inv ∧ w0.fr.busy = true := ⟨w0_inv, by decide⟩

theorem witness_IdleFramerIsSilent :
    s2.fr.busy = false ∧ s2.fr.wkind = .none ∧ Undisturbed [.framer, .tick] ∧
      ∃ s', play [.framer, .tick] s2 = .next s' := ⟨by decide, by decide, by decide, _, rfl⟩

theorem witness_WaitLastsItsTicks :
    (w2 .backoff 0).fr.busy = true ∧ (w2 .backoff 0).fr.wkind ≠ .none ∧
      Turn.reset ∉ [Turn.tick, .framer, .tick, .tick, .tick] ∧
      (w2 .backoff 0).fr.wcnt + [Turn.tick, .framer, .tick, .tick, .tick].count .tick < (w2 .backoff 0).fr.wneed ∧
      ∃ s', play [.tick, .framer, .tick, .tick, .tick] (w2 .backoff 0) = .next s' :=
  ⟨by decide, by decide, by decide, by decide, _, rfl⟩

/-- A framer turn that ends a register read. -/
def w3 : State :=
  { wf (begun .rdid []) { (begun .rdid []).fr with pc := 2, v0 := 0x3055 } with
    env := { hostProg := [], turns := [.framer], oracle := [], turnNo := 0 } }

theorem witness_OnlyFinAndIdchkWriteResult :
    ∃ s', step w3 = .next s' ∧ s'.fr.result ≠ w3.fr.result := ⟨_, rfl, by decide⟩

theorem witness_OnlyRdresRaisesInvalidParam :
    ∃ t, exec (.rdres 4) s2 = .next t ∧ t.fr.err ≠ s2.fr.err := ⟨_, rfl, by decide⟩

theorem witness_SetHzRestartsTheToggleTimer : (0 : BitVec 24) = 0 ∧ (1 : BitVec 24) ≠ 0 := by decide

theorem witness_CompareValueIsWithinOneTick : (100 : Nat) ≤ 100 ∧ compareValue ps1 100 = 999 := by decide

theorem witness_ReloadIsTheTruncatedHalfPeriod :
    ps1.Valid ∧ 1 ≤ 20 ∧ 1 < reload ps1 20 ∧ reload ps1 20 < ps1.toggleReloadMax := by decide

theorem witness_SettersAreOpenLoop_duty :
    ∃ s', step (w1 0x80000032) = .next s' ∧ (w1 0x80000032).nextTurn ≠ .reset ∧
      s'.act.duty ≠ (w1 0x80000032).act.duty := ⟨_, rfl, by decide, by decide⟩
theorem witness_SettersAreOpenLoop_hz :
    ∃ s', step (w1 0x90000014) = .next s' ∧ (w1 0x90000014).nextTurn ≠ .reset ∧
      s'.act.togHz ≠ (w1 0x90000014).act.togHz := ⟨_, rfl, by decide, by decide⟩

/-- The toggle timer running at 100 Hz (reload 5), as in program P4. -/
def w4 : State := nextOr s2 (exec (.sethz 100) s2)

theorem w4_inv : w4.Inv :=
  ⟨by decide, by constructor <;> decide, by constructor <;> decide⟩

-- Four ticks fill no half-period, and the fifth sets the flag.
theorem witness_ToggleEventEveryHalfPeriod :
    w4.Inv ∧ w4.act.togRun = true ∧ Undisturbed (List.replicate 4 .tick) ∧
      w4.act.togCnt + (List.replicate 4 Turn.tick).count .tick < w4.act.togReload + w4.params.reloadOffset ∧
      w4.act.togglePending = false ∧
      (w4.act.togCnt + (List.replicate 4 Turn.tick).count .tick + 1) % (w4.act.togReload + w4.params.reloadOffset) = 0 ∧
      ∃ s' s'', play (List.replicate 4 .tick) w4 = .next s' ∧ play [.tick] s' = .next s'' :=
  ⟨w4_inv, by decide, by decide, by decide, by decide, by decide, _, _, rfl, rfl⟩

/-- SETDUTY 50 at the start of a PWM cycle of 4 ticks. -/
def w5 : State := nextOr s2 (exec (.setduty 50) s2)

-- Four ticks are a whole cycle: the value is in effect; after none it still waits.
theorem witness_NewDutyTakesEffectWithinOneCycle :
    w5.act.pwmCnt ≤ w5.params.pwmPeriod ∧ w5.act.ccrUpd = true ∧ Undisturbed (List.replicate 4 .tick) ∧
      w5.params.pwmPeriod + 1 ≤ (List.replicate 4 Turn.tick).count .tick ∧
      (∃ s', play (List.replicate 4 .tick) w5 = .next s' ∧ s'.act.ccrUpd = false) ∧
      Undisturbed [] ∧ (∃ s', play [] w5 = .next s' ∧ s'.act.ccrUpd = true) :=
  ⟨by decide, by decide, by decide, by decide, ⟨_, rfl, by decide⟩, by decide, ⟨_, rfl, by decide⟩⟩

theorem witness_CompareLoaderLoadsAWaitingValue : w5.act.ccrUpd = true ∧ s2.act.ccrUpd = false := by decide

/-- `g` in place of a state's actuation group. -/
def wa (s : State) (g : Actuation) : State := { s with act := g }

theorem witness_HandlerClaimsConsumesAndDrives :
    (let s := wa s2 { s2.act with togglePending := true }
    s.act.hbPhase = .idle ∧ s.act.togglePending = true) ∧
    (s2.act.hbPhase = .idle ∧ s2.act.togglePending = false) ∧
    (wa s2 { s2.act with hbPhase := .claim }).act.hbPhase = .claim ∧
    (let s := wa s2 { s2.act with hbPhase := .deadtime, hbDt := 2 }
    s.act.hbPhase = .deadtime ∧ (2 * s.params.tickHz + 999) / 1000 ≤ s.act.hbDt) ∧
    (let s := wa s2 { s2.act with hbPhase := .deadtime, hbDt := 1 }
    s.act.hbPhase = .deadtime ∧ s.act.hbDt < (2 * s.params.tickHz + 999) / 1000) := by decide

theorem witness_EventInTheClaimWindowIsLost :
    let s := wa w4 { w4.act with hbPhase := .claim, togglePending := true, togCnt := 4 }
    s.act.hbPhase = .claim ∧ s.act.togRun = true ∧
      s.act.togReload + s.params.reloadOffset ≤ s.act.togCnt + 1 := by decide

/-- Idle, an event pending, driving A-forward. -/
def w6 : State := wa s2 { s2.act with togglePending := true, outA := true }

theorem w6_inv : w6.Inv :=
  ⟨by decide, by constructor <;> decide, by constructor <;> decide⟩

theorem witness_GuardedToggleFollowsTheDirectionSequence :
    w6.Inv ∧ w6.act.hbPhase = .idle ∧ w6.act.togglePending = true ∧ Undisturbed [.tick, .tick] ∧
      Turn.handler ∉ [Turn.tick, .tick] ∧ dtTicks w6.params ≤ [Turn.tick, .tick].count .tick :=
  ⟨w6_inv, by decide, by decide, by decide, by decide, by decide⟩

/-- A dead time just begun. -/
def w7 : State := wa s2 { s2.act with hbPhase := .deadtime }

theorem witness_DeadTimeLastsItsTicks :
    w7.act.hbPhase = .deadtime ∧ w7.act.hbDt = 0 ∧ w7.act.outA = false ∧ w7.act.outB = false ∧
      Turn.reset ∉ [Turn.tick, .tick, .handler] ∧
      ∃ s', play [.tick, .tick, .handler] w7 = .next s' ∧ (s'.act.outA = true ∨ s'.act.outB = true) :=
  ⟨by decide, by decide, by decide, by decide, by decide, _, rfl, by decide⟩

/-- `s` with the turn `t` next. -/
def atTurn (t : Turn) (s : State) : State := { s with env := { s.env with turns := [t] } }

theorem witness_OutputsChangeOnlyThroughTheHandler :
    let s := atTurn .handler (wa s2 { s2.act with hbPhase := .claim, togglePending := true, outA := true })
    ∃ s', step s = .next s' ∧ (s'.act.outA, s'.act.outB) ≠ (s.act.outA, s.act.outB) := ⟨_, rfl, by decide⟩

theorem witness_OnlyTheTimerSetsThePendingFlag_set :
    let s := atTurn .tick (wa w4 { w4.act with togCnt := 4 })
    ∃ s', step s = .next s' ∧ s.act.togglePending = false ∧ s'.act.togglePending = true :=
  ⟨_, rfl, by decide, by decide⟩
theorem witness_OnlyTheTimerSetsThePendingFlag_clear :
    let s := atTurn .handler (wa s2 { s2.act with hbPhase := .claim, togglePending := true })
    ∃ s', step s = .next s' ∧ s.act.togglePending = true ∧ s'.act.togglePending = false :=
  ⟨_, rfl, by decide, by decide⟩

theorem witness_InvariantHoldsAtReset : ps1.Valid := by decide

theorem witness_EveryStepKeepsTheInvariant : ∃ s s' : State, s.Inv ∧ step s = .next s' :=
  ⟨atTurn .framer w0, _, ⟨by decide, by constructor <;> decide, by constructor <;> decide⟩, rfl⟩

/-- The host's turn at an unaligned read. -/
def w8 : State := { s2 with env := { s2.env with turns := [.host], hostProg := [.rd 0x02 4 "x"] } }

theorem witness_OnlyRefusedHostAccessesStop : w8.Inv ∧ step w8 = .refused (.hostOffset 0x02) :=
  ⟨⟨by decide, by constructor <;> decide, by constructor <;> decide⟩, by rfl⟩

theorem witness_StickyBitsStay_ovr :
    let s := { wf w0 { w0.fr with ill := true } with env := (w1 0x40000000).env }
    ∃ s', step s = .next s' ∧ s.nextTurn ≠ .reset ∧ s.fr.ill = true ∧ s.fr.ovr = false ∧ s'.fr.ovr = true :=
  ⟨_, rfl, by decide, by decide, by decide, by decide⟩
theorem witness_StickyBitsStay_ill :
    let s := { wf w0 { w0.fr with ovr := true } with env := (w1 0x00000000).env }
    ∃ s', step s = .next s' ∧ s.nextTurn ≠ .reset ∧ s.fr.ovr = true ∧ s.fr.ill = false ∧ s'.fr.ill = true :=
  ⟨_, rfl, by decide, by decide, by decide, by decide⟩

-- One machine idle, the other busy and with other answers.
theorem witness_ActuationIgnoresTheFramer :
    let a := w1 0x80000032
    let b := { w0 with env := { (w1 0x80000032).env with oracle := [.fail] } }
    a.params = b.params ∧ a.act = b.act ∧ a.env.hostProg = b.env.hostProg ∧
      [Turn.host, .framer].count .host ≤ a.env.hostProg.length ∧ .waitIdle ∉ a.env.hostProg ∧
      ∃ a' b', play [.host, .framer] a = .next a' ∧ play [.host, .framer] b = .next b' :=
  ⟨by decide, by decide, by decide, by decide, by decide, _, _, rfl, rfl⟩

theorem witness_FramerIgnoresTheActuation :
    let a := { w0 with env := { w0.env with hostProg := [.waitIdle] } }
    let b := wa a w4.act
    a.params = b.params ∧ a.fr = b.fr ∧ a.busHist = b.busHist ∧ a.env.oracle = b.env.oracle ∧
      a.env.hostProg = b.env.hostProg ∧ [Turn.framer, .host, .tick].count .host ≤ a.env.hostProg.length ∧
      ∃ a' b', play [.framer, .host, .tick] a = .next a' ∧ play [.framer, .host, .tick] b = .next b' :=
  ⟨by decide, by decide, by decide, by decide, by decide, by decide, _, _, rfl, rfl⟩

-- The last register, the first offset past it, an unaligned one, another width.
/-- The idle machine with one host step to issue. -/
def hosting (h : HostStep) : State := { s2 with env := { s2.env with hostProg := [h] } }

-- Each clause on a write, at the ends of its range of offsets: a command, an illegal word, the read-only registers, an
-- unaligned and an outside offset, and another width.
theorem witness_HostAccessesFollowTheRegisterMap_writes :
    (hosting (.wr 0x00 4 0x40000000)).nextHostStep = .wr 0x00 4 0x40000000 ∧ decode 0x40000000 = .ok .rdid ∧
    (hosting (.wr 0x00 4 0)).nextHostStep = .wr 0x00 4 0 ∧ decode 0 = .error (.reservedOpcode 0) ∧
    (hosting (.wr 0x04 4 7)).nextHostStep = .wr 0x04 4 7 ∧ (hosting (.wr 0x1C 4 7)).nextHostStep = .wr 0x1C 4 7 ∧
    (0x04 : Nat) ∈ [0x04, 0x08, 0x0C, 0x10, 0x14, 0x18, 0x1C] ∧
    (0x1C : Nat) ∈ [0x04, 0x08, 0x0C, 0x10, 0x14, 0x18, 0x1C] ∧
    (hosting (.wr 0x01 4 7)).nextHostStep = .wr 0x01 4 7 ∧ (hosting (.wr 0x20 4 7)).nextHostStep = .wr 0x20 4 7 ∧
    (0x01 : Nat) ∉ [0x00, 0x04, 0x08, 0x0C, 0x10, 0x14, 0x18, 0x1C] ∧
    (0x20 : Nat) ∉ [0x00, 0x04, 0x08, 0x0C, 0x10, 0x14, 0x18, 0x1C] ∧
    (hosting (.wr 0x00 2 0)).nextHostStep = .wr 0x00 2 0 ∧ (2 : Nat) ≠ 4 := by decide

-- Each clause on a read, likewise.
theorem witness_HostAccessesFollowTheRegisterMap_reads :
    (hosting (.rd 0x00 4 "r")).nextHostStep = .rd 0x00 4 "r" ∧
    (hosting (.rd 0x1C 4 "r")).nextHostStep = .rd 0x1C 4 "r" ∧
    (0x00 : Nat) ∈ [0x00, 0x04, 0x08, 0x0C, 0x10, 0x14, 0x18, 0x1C] ∧
    (hosting (.rd 0x1D 4 "r")).nextHostStep = .rd 0x1D 4 "r" ∧
    (hosting (.rd 0x20 4 "r")).nextHostStep = .rd 0x20 4 "r" ∧
    (0x1D : Nat) ∉ [0x00, 0x04, 0x08, 0x0C, 0x10, 0x14, 0x18, 0x1C] ∧
    (hosting (.rd 0x04 8 "r")).nextHostStep = .rd 0x04 8 "r" ∧ (8 : Nat) ≠ 4 := by decide

-- V-ACT-1 and R61: a read of ACT_STATUS after reset, through the host's turn.
theorem test_host_read_turn :
    (nextOr s2 (runTurn .host (hosting (.rd 0x0C 4 "a")))).hostReads = [⟨"a", 0⟩] := by decide

theorem witness_FrStatusShowsItsFields :
    s2.fr.err = .none ∧ ({ s2.fr with err := .busError } : Framer).err = .busError ∧
      ({ s2.fr with err := .invalidParam } : Framer).err = .invalidParam := by decide

theorem witness_NumericRegistersShowWholeValues : w4.Inv := w4_inv

theorem witness_WaitIdleLoopsWhileBusy :
    ({ w0 with env := { w0.env with hostProg := [.waitIdle] } } : State).env.hostProg = .waitIdle :: [] ∧
      w0.fr.busy = true ∧ s2.fr.busy = false := by decide

theorem witness_MsTicksIsTheCeiling : 1000 ≤ ps2.tickHz ∧ 5 * ps2.tickHz ≤ 5 * 1000 := by decide

-- 100 and 101; 1, 16777215 and 16777216.
theorem witness_CommandLineNumbersIssueTheirCommand :
    ('F' = 'f' ∨ 'F' = 'F') ∧ parseLine (Nat.toDigits 10 100) = .command (.setduty 100) ∧
    parseLine (Nat.toDigits 10 101) = .rejected ∧ parseLine ('F' :: Nat.toDigits 10 1) = .command (.sethz 1) ∧
    parseLine ('f' :: Nat.toDigits 10 16777215) = .command (.sethz 16777215) ∧
    parseLine ('f' :: Nat.toDigits 10 16777216) = .rejected := by decide

theorem witness_CommandLineIssuesOnlySetters :
    parseLine ['f', '7'] = .command (.sethz 7) ∧ parseLine ['0'] = .command (.setduty 0) := by decide

-- 255 and 65535, the ends of two operand ranges, in the three ways a number is written.
theorem witness_AssemblerTakesOperandsInRange :
    ['2', '5', '5'] ∈ numberTexts 255 ∧ ['0', 'x', 'f', 'f'] ∈ numberTexts 255 ∧
    ['0', 'x', 'F', 'F', 'F', 'F'] ∈ numberTexts 65535 := by decide

theorem witness_EveryAttemptIsOfTheNextPrimitive :
    w0.Inv ∧ w0.fr.busy = true ∧ w0.fr.pc = 0 ∧ w0.fr.wkind = .none ∧ w0.fr.err = .none ∧
      Undisturbed [.framer, .framer, .framer] ∧ ∃ s', play [.framer, .framer, .framer] w0 = .next s' :=
  ⟨w0_inv, by decide, by decide, by decide, by decide, by decide, _, rfl⟩

-- The clause on one attempt: the receive after the pointer set that succeeded.
theorem witness_EveryAttemptIsOfTheNextPrimitive_attempt :
    let s := begun (.rdreg 0x18) [ack, .fail]
    (nextOr s (play [.framer, .framer] s)).busHist = s.busHist ++ ([.bw [0x18] true] ++ .br 2 none :: []) := by decide

-- The clause on a command that has ended without an error.
theorem witness_EveryAttemptIsOfTheNextPrimitive_ended :
    let s := begun (.rdreg 0x18) [ack, ack]
    s.fr.busy = true ∧ s.fr.pc = 0 ∧ s.fr.wkind = .none ∧ s.fr.err = .none ∧
      (nextOr s (play [.framer, .framer, .framer] s)).fr.busy = false ∧
      (nextOr s (play [.framer, .framer, .framer] s)).fr.err = .none := by decide

end Sys2Proof.Tests
end

section
/-! PROOFS. The statements of spec/00_scope.md: the turn a step takes (R5), delays in ticks (R8), and how long a wait
lasts (R8 with 40_bus_transport.md R104, R108). -/

namespace Sys2Proof.Machine

open Sys2Proof.Config

/-! ### The turn a step takes -/

theorem State.nextTurn_of_listed {s : State} {t : Turn} {ts : List Turn} (h : s.env.turns = t :: ts) :
    s.nextTurn = t := by
  simp only [State.nextTurn, h]

theorem State.afterTurn_of_listed {s : State} {t : Turn} {ts : List Turn} (h : s.env.turns = t :: ts) :
    s.afterTurn = { s with env := { s.env with turns := ts, turnNo := s.env.turnNo + 1 } } := by
  simp only [State.afterTurn, State.withEnv, h, List.tail_cons]

/-- Settles O5: the head of the schedule is whose turn it is, its tail is what remains. -/
theorem stepGivesTheListedTurn : Obligations.StepGivesTheListedTurn := by
  intro s t ts h
  rw [step, State.nextTurn_of_listed h, State.afterTurn_of_listed h]

/-! ### Delays in ticks -/

/-- The model's `ceil_div` is Mathlib's `⌈/⌉`, so it is the lower adjoint of multiplication. -/
theorem ceilDiv_le_iff {a b k : Nat} (hb : 0 < b) : ceilDiv a b ≤ k ↔ a ≤ k * b := by
  rw [ceilDiv, ← Nat.ceilDiv_eq_add_pred_div, ceilDiv_le_iff_le_mul hb, Nat.mul_comm]

theorem msTicks_le_iff {p : Params} {m k : Nat} : msTicks p m ≤ k ↔ m * p.tickHz ≤ k * 1000 :=
  ceilDiv_le_iff (by decide)

theorem le_msTicks_mul (p : Params) (m : Nat) : m * p.tickHz ≤ msTicks p m * 1000 := msTicks_le_iff.mp le_rfl

/-- With a tick rate of 1000 Hz or more a millisecond is at least one tick (00_scope.md R6). -/
theorem le_msTicks {p : Params} (hp : 1000 ≤ p.tickHz) (m : Nat) : m ≤ msTicks p m := by
  have hmul : m * 1000 ≤ msTicks p m * 1000 :=
    calc m * 1000 ≤ m * p.tickHz := Nat.mul_le_mul_left m hp
      _ ≤ msTicks p m * 1000 := le_msTicks_mul p m
  exact Nat.le_of_mul_le_mul_right hmul (by decide)

/-- Settles O56, by the adjunction `msTicks_le_iff`. -/
theorem msTicksIsTheCeiling : Obligations.MsTicksIsTheCeiling := fun p m =>
  ⟨le_msTicks_mul p m, fun _ => msTicks_le_iff.mpr, fun hp => le_msTicks hp m⟩

/-! ### A busy framer under the host's turn -/

/-- A command issued while the framer is busy sets at most OVR in the framer group (30_encoding.md R80, R88). -/
theorem exec_of_busy {i : Instr} {s s' : State} (hb : s.fr.busy = true) (h : exec i s = .next s') :
    s'.busHist = s.busHist ∧ (s'.fr = s.fr ∨ s'.fr = s.fr.overrun) := by
  obtain ⟨opc, a, d, he, -⟩ | ⟨pct, -, he⟩ | ⟨hz, -, he⟩ := exec_next_cases i s
  all_goals rw [he] at h; cases h
  · exact ⟨rfl, .inr (by rw [issueFramer_fr, if_pos hb])⟩
  · exact ⟨rfl, .inl rfl⟩
  · exact ⟨rfl, .inl rfl⟩

/-- A host turn while the framer is busy sets at most one of the sticky bits OVR and ILL in the framer group, and makes
no bus attempt (30_encoding.md R88, R89). -/
theorem hostTurn_of_busy {s s' : State} (hb : s.fr.busy = true) (h : hostTurn s = .next s') :
    s'.busHist = s.busHist ∧ (s'.fr = s.fr ∨ s'.fr = s.fr.overrun ∨ s'.fr = s.fr.illegal) := by
  obtain ⟨r, rfl⟩ | ⟨r, rfl⟩ | rfl | rfl | ⟨v, i, -, -, he⟩ := runHostStep_next_cases h
  · exact ⟨rfl, .inl rfl⟩
  · exact ⟨rfl, .inl rfl⟩
  · exact ⟨rfl, .inl rfl⟩
  · exact ⟨rfl, .inr (.inr rfl)⟩
  · obtain ⟨hhist, hfr⟩ := exec_of_busy (s := s.afterHostStep) hb he
    exact ⟨hhist, hfr.imp_right .inl⟩

/-! ### A wait in progress -/

/-- From `s` to `s'` the framer has stayed at the same wait of the same command while `n` ticks were counted: nothing of
the framer group but FR.WCNT and the sticky bits has changed, and no bus attempt was made. -/
def WaitKept (n : Nat) (s s' : State) : Prop :=
  (∃ ovr ill, s'.fr = { s.fr with wcnt := s.fr.wcnt + n, ovr := ovr, ill := ill }) ∧ s'.busHist = s.busHist

theorem WaitKept.refl (s : State) : WaitKept 0 s s := ⟨⟨_, _, rfl⟩, rfl⟩

theorem WaitKept.trans {m n : Nat} {s t u : State} (h : WaitKept m s t) (k : WaitKept n t u) :
    WaitKept (m + n) s u := by
  obtain ⟨⟨_, _, hfr⟩, hhist⟩ := h
  obtain ⟨⟨ovr, ill, kfr⟩, khist⟩ := k
  exact ⟨⟨ovr, ill, by rw [kfr, hfr, Nat.add_assoc]⟩, khist.trans hhist⟩

theorem hostTurn_keeps_wait {s s' : State} (hb : s.fr.busy = true) (h : hostTurn s = .next s') : WaitKept 0 s s' := by
  obtain ⟨hhist, hfr | hfr | hfr⟩ := hostTurn_of_busy hb h
  · exact ⟨⟨_, _, hfr⟩, hhist⟩
  · exact ⟨⟨_, _, hfr⟩, hhist⟩
  · exact ⟨⟨_, _, hfr⟩, hhist⟩

/-- The framer waits on while ticks are missing (40_bus_transport.md R105). -/
theorem framerTurn_keeps_wait {s s' : State} (hb : s.fr.busy = true) (hw : s.fr.wkind ≠ .none)
    (hlt : s.fr.wcnt < s.fr.wneed) (h : framerTurn s = .next s') : WaitKept 0 s s' := by
  obtain ⟨hidle, -⟩ | ⟨-, -, -, rfl⟩ | ⟨-, -, hle, -⟩ | ⟨_, -, hnone, -⟩ := framerTurn_next_cases h
  · simp [hb] at hidle
  · exact .refl _
  · omega
  · exact absurd hnone hw

/-- A tick counts once for a wait that is not at its end (46_actuation_engine.md R170). -/
theorem tickStep_keeps_wait {s : State} (hw : s.fr.wkind ≠ .none) (hlt : s.fr.wcnt < s.fr.wneed) :
    WaitKept 1 s (tickStep s) := by
  refine ⟨⟨s.fr.ovr, s.fr.ill, ?_⟩, rfl⟩
  change s.fr.tick = _
  rw [Framer.tick, if_neg hw, Nat.min_eq_left hlt]

/-- Every turn but RESET's keeps a wait that is not at its end; only a tick is counted. -/
theorem runTurn_keeps_wait {t : Turn} {s s' : State} (hb : s.fr.busy = true) (hw : s.fr.wkind ≠ .none)
    (hlt : s.fr.wcnt < s.fr.wneed) (ht : t ≠ .reset) (h : runTurn t s = .next s') :
    WaitKept ([t].count .tick) s s' := by
  cases t with
  | host => exact hostTurn_keeps_wait hb h
  | framer => exact framerTurn_keeps_wait hb hw hlt h
  | tick => cases h; exact tickStep_keeps_wait hw hlt
  | handler => cases h; exact ⟨⟨_, _, rfl⟩, rfl⟩
  | loader => cases h; exact ⟨⟨_, _, rfl⟩, rfl⟩
  | reset => exact absurd rfl ht

/-- A schedule that is played to a next state: its first turn answers one, from which the rest is played. -/
theorem play_cons_next {t : Turn} {ts : List Turn} {s s' : State} (h : play (t :: ts) s = .next s') :
    ∃ u, runTurn t s.counted = .next u ∧ play ts u = .next s' := by
  rw [play_cons] at h
  split at h
  · exact ⟨_, ‹_›, h⟩
  · cases h
  · cases h

/-- By induction on the schedule: after each turn the wait is the same one, with the ticks so far counted. -/
theorem play_keeps_wait {s s' : State} {ts : List Turn} (hb : s.fr.busy = true) (hw : s.fr.wkind ≠ .none)
    (hr : .reset ∉ ts) (hlt : s.fr.wcnt + ts.count .tick < s.fr.wneed) (h : play ts s = .next s') :
    WaitKept (ts.count .tick) s s' := by
  induction ts generalizing s with
  | nil => cases h; exact .refl s
  | cons t ts ih =>
    obtain ⟨u, hu, hplay⟩ := play_cons_next h
    obtain ⟨htr, hr⟩ : t ≠ .reset ∧ .reset ∉ ts := by simpa [eq_comm] using hr
    have hcount : (t :: ts).count .tick = [t].count .tick + ts.count .tick := List.count_append (l₁ := [t])
    have hfirst : WaitKept ([t].count .tick) s u :=
      runTurn_keeps_wait (s := s.counted) hb hw (show s.fr.wcnt < s.fr.wneed by omega) htr hu
    have ⟨⟨_, _, hfr⟩, _⟩ := hfirst
    have hrest : WaitKept (ts.count .tick) u s' :=
      ih (by rw [hfr]; exact hb) (by rw [hfr]; exact hw) hr (by simp only [hfr]; omega) hplay
    rw [hcount]
    exact hfirst.trans hrest

/-- Settles O25, by induction on the schedule (`play_keeps_wait`). -/
theorem waitLastsItsTicks : Obligations.WaitLastsItsTicks := by
  intro s s' ts hb hw hr hlt h
  obtain ⟨⟨_, _, hfr⟩, hhist⟩ := play_keeps_wait hb hw hr hlt h
  simp only [hfr, hhist, hb, and_self]

end Sys2Proof.Machine
end

section
/-! PROOFS. What the block's operations do to its two groups of state (spec/10_state.md R20): the layer the statements
of 10_state.md rest on. The host reaches the block only by a CMD write, a framer command touches only the framer group,
an actuation command only the actuation group. -/

namespace Sys2Proof.Machine

open Sys2Proof.Config

/-! ### The commands -/

/-- A framer command issues the same operation code and operands from every state (30_encoding.md R80, R83). -/
theorem exec_framerCommand {i : Instr} (hi : isFramerCommand i = true) :
    ∃ opc a d, ∀ s, exec i s = .next (issueFramer opc a d s) := by
  cases i with
  | wrreg addr value => exact ⟨_, _, _, fun _ => rfl⟩
  | rdreg addr => exact ⟨_, _, _, fun _ => rfl⟩
  | rdres ch => exact ⟨_, _, _, fun _ => rfl⟩
  | rdid => exact ⟨_, _, _, fun _ => rfl⟩
  | devrst => exact ⟨_, _, _, fun _ => rfl⟩
  | init => exact ⟨_, _, _, fun _ => rfl⟩
  | setduty pct => cases hi
  | sethz hz => cases hi

/-- An actuation command is a function of the parameters and the actuation group alone (R83, 10_state.md R20). -/
theorem exec_actuationCommand {i : Instr} (hi : isFramerCommand i = false) :
    ∃ u : Params → Actuation → Actuation, ∀ s, exec i s = .next (s.withAct (u s.params s.act)) := by
  cases i with
  | setduty pct => exact ⟨fun p g => g.setDuty p pct, fun _ => rfl⟩
  | sethz hz => exact ⟨fun p g => g.setHz p hz, fun _ => rfl⟩
  | wrreg addr value => cases hi
  | rdreg addr => cases hi
  | rdres ch => cases hi
  | rdid => cases hi
  | devrst => cases hi
  | init => cases hi

/-- What a command leaves alone (30_encoding.md R80). -/
theorem exec_frame {i : Instr} {s s' : State} (h : exec i s = .next s') :
    s'.params = s.params ∧ s'.busHist = s.busHist ∧ s'.env = s.env := by
  cases hi : isFramerCommand i with
  | true =>
    obtain ⟨opc, a, d, he⟩ := exec_framerCommand hi
    rw [he] at h; cases h; exact ⟨rfl, rfl, rfl⟩
  | false =>
    obtain ⟨u, he⟩ := exec_actuationCommand hi
    rw [he] at h; cases h; exact ⟨rfl, rfl, rfl⟩

/-- A framer command's CMD write sets OVR while the framer is busy; otherwise it is turned away with INVALID_PARAM, or
it starts the command (R88, 41_register_protocol.md R120). -/
theorem issueFramer_fr_cases (opc : BitVec 4) (a : Byte) (d : Half) (s : State) :
    (s.fr.busy = true ∧ (issueFramer opc a d s).fr = s.fr.overrun) ∨
    (s.fr.busy = false ∧ (issueFramer opc a d s).fr = { s.fr with err := .invalidParam }) ∨
    (s.fr.busy = false ∧ ¬(opc = opRDRES ∧ channelValid a = false) ∧
      (issueFramer opc a d s).fr = s.fr.start opc a d) := by
  rw [issueFramer_fr]
  cases hb : s.fr.busy with
  | true => exact .inl ⟨rfl, rfl⟩
  | false =>
    obtain ⟨-, -, he⟩ | ⟨hch, he⟩ := accept_cases s.fr opc a d
    · exact .inr (.inl ⟨rfl, he⟩)
    · exact .inr (.inr ⟨rfl, hch, he⟩)

/-! ### The host's turn -/

/-- From `s` to `s'` nothing has changed of the block, the bus or the oracle's list. -/
structure BlockKept (s s' : State) : Prop where
  params : s'.params = s.params
  fr : s'.fr = s.fr
  act : s'.act = s.act
  busHist : s'.busHist = s.busHist
  oracle : s'.env.oracle = s.env.oracle

theorem issueWord_cases {v : Word} {s s' : State} (h : issueWord v s = .next s') :
    (∃ e, decode v = .error e ∧ s' = s.withFr s.fr.illegal) ∨ (∃ i, decode v = .ok i ∧ exec i s = .next s') := by
  unfold issueWord at h
  split at h
  · cases h; exact .inl ⟨_, ‹_›, rfl⟩
  · exact .inr ⟨_, ‹_›, h⟩

/-- A write issues a word at CMD and has no effect elsewhere (20_memory.md R61). -/
theorem memWrite_cases {off bytes : Nat} {v : Word} {s s' : State} (h : memWrite off bytes v s = .next s') :
    (off = 0 ∧ bytes = 4 ∧ issueWord v s = .next s') ∨ s' = s := by
  unfold memWrite at h
  split at h
  · split at h
    · exact .inl ⟨‹_›, ‹_›, h⟩
    · split at h
      · cases h; exact .inr rfl
      · cases h
  · cases h

/-- A read changes only the model's record of it (R61). -/
theorem memRead_cases {off bytes : Nat} {name : String} {s s' : State} (h : memRead off bytes name s = .next s') :
    ∃ r, s' = s.logRead r := by
  unfold memRead at h
  split at h
  · split at h
    · cases h; exact ⟨_, rfl⟩
    · cases h
  · cases h

/-- FR_STATUS bit 0 is BUSY (10_state.md R21). -/
theorem Framer.statusWord_bit0 (f : Framer) : f.statusWord.getLsbD 0 = f.busy := by
  have hlow : f.statusWord.getLsbD 0 = (bit f.busy).getLsbD 0 := BitVec.getLsbD_append
  rw [hlow]
  simp [bit]

/-- A round of WAITIDLE is a read, after which the host stays while the framer is busy (30_encoding.md R94). -/
theorem waitIdleStep_eq (s : State) : waitIdleStep s =
    if s.fr.busy then (s.logRead ⟨"s", s.fr.statusWord⟩).repeatHostStep .waitIdle
    else s.logRead ⟨"s", s.fr.statusWord⟩ := by
  rw [waitIdleStep, Framer.statusWord_bit0]

/-- No host step but a write to CMD has an effect on the block (20_memory.md R61). -/
theorem runHostStep_keeps_block {h : HostStep} {s s' : State} (hcmd : ∀ v, h ≠ .wr 0 4 v)
    (e : runHostStep h s = .next s') : BlockKept s s' := by
  cases h with
  | wr off bytes v =>
    obtain ⟨rfl, rfl, -⟩ | rfl := memWrite_cases e
    · exact absurd rfl (hcmd v)
    · exact ⟨rfl, rfl, rfl, rfl, rfl⟩
  | rd off bytes name =>
    obtain ⟨r, rfl⟩ := memRead_cases e
    exact ⟨rfl, rfl, rfl, rfl, rfl⟩
  | waitIdle =>
    rw [runHostStep, waitIdleStep_eq] at e
    split at e
    · cases e; exact ⟨rfl, rfl, rfl, rfl, rfl⟩
    · cases e; exact ⟨rfl, rfl, rfl, rfl, rfl⟩

/-- The host goes back to a WAITIDLE while the framer is busy, and to no other step (30_encoding.md R94). -/
theorem runHostStep_hostProg {h : HostStep} {s s' : State} (e : runHostStep h s = .next s') :
    s'.env.hostProg = if h = .waitIdle ∧ s.fr.busy = true then .waitIdle :: s.env.hostProg else s.env.hostProg := by
  cases h with
  | wr off bytes v =>
    rw [if_neg (nomatch ·.1)]
    obtain ⟨-, -, hissue⟩ | rfl := memWrite_cases e
    · obtain ⟨_, -, rfl⟩ | ⟨i, -, hx⟩ := issueWord_cases hissue
      · rfl
      · rw [(exec_frame hx).2.2]
    · rfl
  | rd off bytes name =>
    obtain ⟨r, rfl⟩ := memRead_cases e
    exact (if_neg (nomatch ·.1)).symm
  | waitIdle =>
    rw [runHostStep, waitIdleStep_eq] at e
    split at e
    · cases e; exact (if_pos ⟨rfl, ‹_›⟩).symm
    · cases e; exact (if_neg (fun hc => absurd hc.2 ‹_›)).symm

/-- The host's turn leaves the block alone, or is the CMD write of an illegal word or of a command. -/
theorem hostTurn_cases {s s' : State} (h : hostTurn s = .next s') :
    BlockKept s s' ∨
    (∃ v e, s.nextHostStep = .wr 0 4 v ∧ decode v = .error e ∧ s' = s.afterHostStep.withFr s.fr.illegal) ∨
    (∃ v i, s.nextHostStep = .wr 0 4 v ∧ decode v = .ok i ∧ exec i s.afterHostStep = .next s') := by
  rw [hostTurn] at h
  by_cases hcmd : ∃ v, s.nextHostStep = .wr 0 4 v
  · obtain ⟨v, hv⟩ := hcmd
    rw [hv] at h
    obtain ⟨e, hd, hs'⟩ | ⟨i, hd, hx⟩ := issueWord_cases (s := s.afterHostStep) h
    · exact .inr (.inl ⟨v, e, hv, hd, hs'⟩)
    · exact .inr (.inr ⟨v, i, hv, hd, hx⟩)
  · obtain ⟨hp, hf, hg, hb, ho⟩ := runHostStep_keeps_block (not_exists.mp hcmd) h
    exact .inl ⟨hp, hf, hg, hb, ho⟩

/-! ### The framer's turn -/

/-- What a micro-operation does to the framer group: a failed attempt, or the effect of the one it is
(40_bus_transport.md R102 to R108, 41_register_protocol.md R131). -/
theorem microStep_fr_cases (m : MicroOp) (s : State) :
    (isFin m = false ∧ (microStep m s).fr = s.fr.failedAttempt s.params) ∨
    (∃ bytes, m = .tx bytes ∧ (microStep m s).fr = s.fr.advance) ∨
    (∃ k v, m = .rx k ∧ (microStep m s).fr = (s.fr.latch k v).advance) ∨
    (m = .idchk ∧ (microStep m s).fr = s.fr.checkId s.params) ∨
    (m = .waitSettle ∧ (microStep m s).fr = s.fr.startWait .settle (settleTicks s.params)) ∨
    (∃ kind, m = .fin kind ∧ (microStep m s).fr = s.fr.finish kind) := by
  cases m with
  | tx bytes =>
    simp only [microStep, txStep, State.withFr_fr]
    cases s.nextAnswer with
    | fail => exact .inl ⟨rfl, rfl⟩
    | ok b0 b1 => exact .inr (.inl ⟨bytes, rfl, rfl⟩)
  | rx k =>
    simp only [microStep, rxStep, State.withFr_fr]
    cases s.nextAnswer with
    | fail => exact .inl ⟨rfl, rfl⟩
    | ok b0 b1 => exact .inr (.inr (.inl ⟨k, _, rfl, rfl⟩))
  | idchk => exact .inr (.inr (.inr (.inl ⟨rfl, rfl⟩)))
  | waitSettle => exact .inr (.inr (.inr (.inr (.inl ⟨rfl, rfl⟩))))
  | fin kind => exact .inr (.inr (.inr (.inr (.inr ⟨kind, rfl, rfl⟩))))

/-- The framer's turn leaves the parameters, the actuation group and the host's program alone (10_state.md R20). -/
theorem framerTurn_frame {s s' : State} (h : framerTurn s = .next s') :
    s'.params = s.params ∧ s'.act = s.act ∧ s'.env.hostProg = s.env.hostProg := by
  obtain ⟨-, rfl⟩ | ⟨-, -, -, rfl⟩ | ⟨-, -, -, rfl⟩ | ⟨m, -, -, -, rfl⟩ := framerTurn_next_cases h
  · exact ⟨rfl, rfl, rfl⟩
  · exact ⟨rfl, rfl, rfl⟩
  · exact ⟨rfl, rfl, rfl⟩
  · obtain ⟨hact, hparams, -, hprog, -⟩ := microStep_frame m s
    exact ⟨hparams, hact, hprog⟩

/-- From `f` to `f'` neither RESULT nor a sticky bit has changed. -/
structure Framer.ShownKept (f f' : Framer) : Prop where
  result : f'.result = f.result
  ovr : f'.ovr = f.ovr
  ill : f'.ill = f.ill

theorem Framer.shownKept_failedAttempt (p : Params) (f : Framer) : f.ShownKept (f.failedAttempt p) := by
  obtain ⟨-, he⟩ | ⟨-, he⟩ := failedAttempt_cases p f
  · rw [he]; exact ⟨rfl, rfl, rfl⟩
  · rw [he]; exact ⟨rfl, rfl, rfl⟩

theorem Framer.shownKept_endWait (f : Framer) : f.ShownKept f.endWait := by
  unfold Framer.endWait
  split
  · exact ⟨rfl, rfl, rfl⟩
  · exact ⟨rfl, rfl, rfl⟩
  · exact ⟨rfl, rfl, rfl⟩

theorem Framer.shownKept_latch_advance (f : Framer) (k : Latch) (v : Half) : f.ShownKept (f.latch k v).advance := by
  cases k with
  | v0 => exact ⟨rfl, rfl, rfl⟩
  | v1 => exact ⟨rfl, rfl, rfl⟩

theorem Framer.shownKept_tick (f : Framer) : f.ShownKept f.tick := by
  unfold Framer.tick
  split
  · exact ⟨rfl, rfl, rfl⟩
  · exact ⟨rfl, rfl, rfl⟩

/-- The framer's turn keeps RESULT, OVR and ILL, but that IDCHK and FIN may write RESULT (10_state.md R22). -/
theorem framerTurn_shownKept {s s' : State} (h : framerTurn s = .next s') :
    s.fr.ShownKept s'.fr ∨
    (s.fr.busy = true ∧ s.fr.current s.params = some .idchk ∧ s'.fr = s.fr.checkId s.params) ∨
    (∃ kind, s.fr.busy = true ∧ s.fr.current s.params = some (.fin kind) ∧ s'.fr = s.fr.finish kind) := by
  obtain ⟨-, rfl⟩ | ⟨-, -, -, rfl⟩ | ⟨-, -, -, rfl⟩ | ⟨m, hb, -, hm, rfl⟩ := framerTurn_next_cases h
  · exact .inl ⟨rfl, rfl, rfl⟩
  · exact .inl ⟨rfl, rfl, rfl⟩
  · exact .inl s.fr.shownKept_endWait
  · obtain ⟨-, he⟩ | ⟨_, -, he⟩ | ⟨k, v, -, he⟩ | ⟨rfl, he⟩ | ⟨-, he⟩ | ⟨kind, rfl, he⟩ := microStep_fr_cases m s
    · exact .inl (he ▸ s.fr.shownKept_failedAttempt s.params)
    · exact .inl (he ▸ ⟨rfl, rfl, rfl⟩)
    · exact .inl (he ▸ s.fr.shownKept_latch_advance k v)
    · exact .inr (.inl ⟨hb, hm, he⟩)
    · exact .inl (he ▸ ⟨rfl, rfl, rfl⟩)
    · exact .inr (.inr ⟨kind, hb, hm, he⟩)

end Sys2Proof.Machine
end

section
/-! PROOFS. The invariant of spec/10_state.md R43: it holds at reset, and every operation of the block keeps it. -/

namespace Sys2Proof.Machine

open Sys2Proof.Config

/-! ### The numbers it bounds -/

theorem clampDuty_le (pct : Int) : clampDuty pct ≤ dutyMax := by
  simp only [clampDuty, clampInt, dutyMax]
  omega

theorem compareValue_le (p : Params) (pc : Nat) : compareValue p pc ≤ p.pwmPeriod := Nat.min_le_right _ _

/-- The clamp of a reload value is the timer's range (45_actuation_commands.md R151). -/
theorem reload_range {p : Params} (hp : p.Valid) (hz : Nat) : 1 ≤ reload p hz ∧ reload p hz ≤ p.toggleReloadMax := by
  obtain ⟨-, -, -, -, ⟨hmax, -⟩, -⟩ := hp
  exact ⟨Nat.le_min.mpr ⟨Nat.le_max_right _ _, hmax⟩, Nat.min_le_right _ _⟩

theorem zext32_lt (v : Half) : (zext32 v).toNat < 2 ^ rawWidth := by
  simp only [zext32, BitVec.toNat_setWidth, rawWidth]
  omega

/-- A 28-bit result has its top four bits clear (30_encoding.md R85). -/
theorem raw28_lt (hi lo : Half) : (raw28 hi lo).toNat < 2 ^ rawWidth := by
  have hhi : ((hi &&& hiMask).toNat : Nat) < 2 ^ 12 := by
    rw [BitVec.toNat_and]
    exact Nat.and_lt_two_pow _ (by decide)
  simp only [raw28, zext32, hiShift, rawWidth, BitVec.toNat_or, BitVec.toNat_shiftLeft, BitVec.toNat_setWidth]
  refine Nat.or_lt_two_pow ?_ (by omega)
  omega

/-! ### The framer group -/

section FramerGroup

variable {p : Params} {f : Framer}

theorem Framer.inv_atReset (p : Params) : Framer.atReset.Inv p where
  idleNoWait _ := rfl
  attemptRange h := nomatch h
  onProgram h := nomatch h
  backoff h := nomatch h
  settle h := nomatch h
  noWait _ := ⟨rfl, rfl⟩
  waitRange := le_rfl
  errRange := .inl rfl
  resultRange := by decide

theorem Framer.Inv.overrun (h : f.Inv p) : f.overrun.Inv p := { h with }

theorem Framer.Inv.illegal (h : f.Inv p) : f.illegal.Inv p := { h with }

theorem Framer.Inv.rejected (h : f.Inv p) : Framer.Inv p { f with err := .invalidParam } :=
  { h with errRange := .inr (.inr rfl) }

/-- Acceptance lets in only a command that has a program (40_bus_transport.md R101). -/
theorem prog_length_pos (p : Params) {opc : BitVec 4} {a : Byte} (d : Half)
    (hopc : opc = 1 ∨ opc = 2 ∨ opc = 3 ∨ opc = 4 ∨ opc = 5 ∨ opc = 6)
    (hch : ¬(opc = opRDRES ∧ channelValid a = false)) : 0 < (prog p opc a d).length := by
  obtain rfl | rfl | rfl | rfl | rfl | rfl := hopc
  · exact Nat.succ_pos _
  · exact Nat.succ_pos _
  · have hv : channelValid a = true := by simpa [opRDRES] using hch
    change 0 < (if channelValid a then rdresProg p a else []).length
    rw [if_pos hv]
    exact Nat.succ_pos _
  · exact Nat.succ_pos _
  · exact Nat.succ_pos _
  · exact Nat.succ_pos _

theorem Framer.Inv.start (hp : p.Valid) (h : f.Inv p) {opc : BitVec 4} {a : Byte} {d : Half}
    (hprog : 0 < (prog p opc a d).length) : (f.start opc a d).Inv p where
  idleNoWait _ := rfl
  attemptRange _ := ⟨le_rfl, hp.1⟩
  onProgram _ := hprog
  backoff h := nomatch h
  settle h := nomatch h
  noWait _ := ⟨rfl, rfl⟩
  waitRange := le_rfl
  errRange := .inl rfl
  resultRange := h.resultRange

theorem Framer.Inv.latch (h : f.Inv p) (k : Latch) (v : Half) : (f.latch k v).Inv p := by
  cases k with
  | v0 => exact { h with }
  | v1 => exact { h with }

theorem Framer.latch_wkind (f : Framer) (k : Latch) (v : Half) : (f.latch k v).wkind = f.wkind := by
  cases k <;> rfl

theorem Framer.latch_program (p : Params) (f : Framer) (k : Latch) (v : Half) :
    (f.latch k v).program p = f.program p := by
  cases k <;> rfl

theorem Framer.latch_pc (f : Framer) (k : Latch) (v : Half) : (f.latch k v).pc = f.pc := by
  cases k <;> rfl

theorem Framer.Inv.advance (hp : p.Valid) (h : f.Inv p) (hw : f.wkind = .none)
    (hlt : f.pc + 1 < (f.program p).length) : f.advance.Inv p :=
  { h with
    attemptRange := fun _ => ⟨le_rfl, hp.1⟩
    onProgram := fun _ => hlt
    backoff := fun hk => nomatch hw.symm.trans hk
    settle := fun hk => nomatch hw.symm.trans hk }

theorem Framer.Inv.failedAttempt (h : f.Inv p) (hb : f.busy = true) (hw : f.wkind = .none) :
    (f.failedAttempt p).Inv p := by
  obtain ⟨hlt, he⟩ | ⟨-, he⟩ := failedAttempt_cases p f
  · rw [he]
    exact { h with
      idleNoWait := fun hidle => nomatch hb.symm.trans hidle
      backoff := fun _ => ⟨hlt, rfl⟩
      settle := fun hk => nomatch hk
      noWait := fun hk => nomatch hk
      waitRange := Nat.zero_le _ }
  · rw [he]
    exact { h with
      idleNoWait := fun _ => rfl
      attemptRange := fun hbusy => nomatch hbusy
      onProgram := fun hbusy => nomatch hbusy
      backoff := fun hk => nomatch hk
      settle := fun hk => nomatch hk
      noWait := fun _ => h.noWait hw
      errRange := .inr (.inl rfl) }

theorem Framer.Inv.checkId (h : f.Inv p) (hw : f.wkind = .none) (hlt : f.pc + 1 < (f.program p).length) :
    (f.checkId p).Inv p :=
  { h with
    onProgram := fun _ => hlt
    settle := fun hk => nomatch hw.symm.trans hk
    resultRange := zext32_lt f.v0 }

/-- A settle wait begins at WAITSETTLE and stays there (40_bus_transport.md R108). -/
theorem Framer.Inv.startSettle (h : f.Inv p) (hb : f.busy = true) (hm : f.current p = some .waitSettle) :
    (f.startWait .settle (settleTicks p)).Inv p :=
  { h with
    idleNoWait := fun hidle => nomatch hb.symm.trans hidle
    backoff := fun hk => nomatch hk
    settle := fun _ => ⟨hm, rfl⟩
    noWait := fun hk => nomatch hk
    waitRange := Nat.zero_le _ }

theorem Framer.Inv.finResult_lt (h : f.Inv p) (kind : FinKind) : (f.finResult kind).toNat < 2 ^ rawWidth := by
  cases kind with
  | none => exact h.resultRange
  | v16 => exact zext32_lt f.v0
  | raw => exact raw28_lt f.v0 f.v1

theorem Framer.Inv.finish (h : f.Inv p) (hw : f.wkind = .none) (kind : FinKind) : (f.finish kind).Inv p :=
  { h with
    idleNoWait := fun _ => hw
    attemptRange := fun hbusy => nomatch hbusy
    onProgram := fun hbusy => nomatch hbusy
    errRange := .inl rfl
    resultRange := h.finResult_lt kind }

/-- A backoff was begun below the last attempt, a settle wait at a micro-operation with one after it; so the framer goes
on inside its ranges (40_bus_transport.md R105). -/
theorem Framer.Inv.endWait (h : f.Inv p) (hw : f.wkind ≠ .none) : f.endWait.Inv p := by
  unfold Framer.endWait
  split
  · obtain ⟨hlt, -⟩ := h.backoff ‹_›
    exact { h with
      idleNoWait := fun _ => rfl
      attemptRange := fun _ => ⟨Nat.succ_pos _, hlt⟩
      backoff := fun hk => nomatch hk
      settle := fun hk => nomatch hk
      noWait := fun _ => ⟨rfl, rfl⟩
      waitRange := le_rfl }
  · obtain ⟨hm, -⟩ := h.settle ‹_›
    exact { h with
      idleNoWait := fun _ => rfl
      onProgram := fun _ => current_not_fin_lt hm rfl
      backoff := fun hk => nomatch hk
      settle := fun hk => nomatch hk
      noWait := fun _ => ⟨rfl, rfl⟩
      waitRange := le_rfl }
  · exact absurd ‹_› hw

theorem Framer.Inv.tick (h : f.Inv p) : f.tick.Inv p := by
  unfold Framer.tick
  split
  · exact h
  · exact { h with
      noWait := fun hk => absurd hk ‹_›
      waitRange := Nat.min_le_right _ _ }

/-- A framer command's CMD write keeps the invariant, started, dropped or turned away. -/
theorem Framer.Inv.issueFramer {s : State} (hp : s.params.Valid) (h : s.fr.Inv s.params) {opc : BitVec 4}
    (hopc : opc = 1 ∨ opc = 2 ∨ opc = 3 ∨ opc = 4 ∨ opc = 5 ∨ opc = 6) (a : Byte) (d : Half) :
    (issueFramer opc a d s).fr.Inv s.params := by
  obtain ⟨-, he⟩ | ⟨-, he⟩ | ⟨-, hch, he⟩ := issueFramer_fr_cases opc a d s
  · rw [he]; exact h.overrun
  · rw [he]; exact h.rejected
  · rw [he]; exact h.start hp (prog_length_pos s.params d hopc hch)

/-- The micro-operation at FR.PC keeps the invariant: none but FIN is the program's last, so each goes on inside it. -/
theorem Framer.Inv.microStep {s : State} (hp : s.params.Valid) (h : s.fr.Inv s.params) (hb : s.fr.busy = true)
    (hw : s.fr.wkind = .none) {m : MicroOp} (hm : s.fr.current s.params = some m) :
    (microStep m s).fr.Inv s.params := by
  obtain ⟨-, he⟩ | ⟨bytes, rfl, he⟩ | ⟨k, v, rfl, he⟩ | ⟨rfl, he⟩ | ⟨rfl, he⟩ | ⟨kind, rfl, he⟩ :=
    microStep_fr_cases m s
  all_goals rw [he]
  · exact h.failedAttempt hb hw
  · exact h.advance hp hw (current_not_fin_lt hm rfl)
  · refine (h.latch k v).advance hp ?_ ?_
    · rw [Framer.latch_wkind, hw]
    · rw [Framer.latch_pc, Framer.latch_program]
      exact current_not_fin_lt hm rfl
  · exact h.checkId hw (current_not_fin_lt hm rfl)
  · exact h.startSettle hb hm
  · exact h.finish hw kind

end FramerGroup

/-! ### The actuation group -/

section ActuationGroup

variable {p : Params} {g : Actuation}

/-- The toggle timer is stopped at reset, or runs with P_RESET_TOGGLE_HZ (10_state.md R33). -/
theorem Actuation.inv_atReset (hp : p.Valid) : (Actuation.atReset p).Inv p where
  dutyRange := Nat.zero_le _
  activeRange := Nat.zero_le _
  shadowRange := Nat.zero_le _
  pwmRange := Nat.zero_le _
  reloadRange hrun := by
    have hhz : p.resetToggleHz ≠ 0 := by simpa [Actuation.atReset] using hrun
    simpa only [Actuation.atReset, if_neg hhz] using reload_range hp _
  toggleRange hrun := by
    have hhz : p.resetToggleHz ≠ 0 := by simpa [Actuation.atReset] using hrun
    have hpos : 1 ≤ reload p p.resetToggleHz.toNat := (reload_range hp _).1
    simp only [Actuation.atReset, if_neg hhz]
    omega
  reloadOfHz hrun := by
    have hhz : p.resetToggleHz ≠ 0 := by simpa [Actuation.atReset] using hrun
    exact ⟨hhz, if_neg hhz⟩
  stopped hrun := by
    have hhz : p.resetToggleHz = 0 := by simpa [Actuation.atReset] using hrun
    exact ⟨hhz, if_pos hhz, rfl⟩
  claimPending hk := nomatch hk
  deadLow hk := nomatch hk
  notBothHigh hboth := nomatch hboth.1
  deadRange := Nat.zero_le _

theorem Actuation.Inv.setDuty (h : g.Inv p) (pct : Int) : (g.setDuty p pct).Inv p :=
  { h with
    dutyRange := (Nat.mod_le _ _).trans (clampDuty_le pct)
    shadowRange := compareValue_le p _ }

theorem Actuation.Inv.setHz (hp : p.Valid) (h : g.Inv p) (hz : BitVec 24) : (g.setHz p hz).Inv p := by
  unfold Actuation.setHz
  split
  · exact h
  · have hrange := reload_range hp hz.toNat
    exact { h with
      reloadRange := fun _ => hrange
      toggleRange := fun _ => Nat.lt_add_right _ hrange.1
      reloadOfHz := fun _ => ⟨‹_›, rfl⟩
      stopped := fun hstop => nomatch hstop }

theorem Actuation.Inv.load (h : g.Inv p) : g.load.Inv p := by
  unfold Actuation.load
  split
  · exact { h with activeRange := h.shadowRange }
  · exact h

theorem Actuation.Inv.tickToggle (h : g.Inv p) : (g.tickToggle p).Inv p := by
  unfold Actuation.tickToggle
  split
  · have hrun : g.togRun = true := ‹_›
    split
    · have hlt : 0 < g.togReload + p.reloadOffset := Nat.zero_lt_of_lt (h.toggleRange hrun)
      exact { h with
        toggleRange := fun _ => hlt
        stopped := fun hstop => nomatch hrun.symm.trans hstop
        claimPending := fun _ => rfl }
    · have hlt : g.togCnt + 1 < g.togReload + p.reloadOffset := by omega
      exact { h with
        toggleRange := fun _ => hlt
        stopped := fun hstop => nomatch hrun.symm.trans hstop }
  · exact h

theorem Actuation.Inv.tickPwm (h : g.Inv p) : (g.tickPwm p).Inv p := by
  unfold Actuation.tickPwm
  split
  · have hzero : Actuation.Inv p { g with pwmCnt := 0 } := { h with pwmRange := Nat.zero_le _ }
    exact hzero.load
  · have hlt : g.pwmCnt + 1 ≤ p.pwmPeriod := Nat.lt_of_le_of_ne h.pwmRange ‹_›
    exact { h with pwmRange := hlt }

theorem Actuation.Inv.tickDead (h : g.Inv p) : (g.tickDead p).Inv p := by
  unfold Actuation.tickDead
  split
  · exact { h with deadRange := Nat.min_le_right _ _ }
  · exact h

theorem Actuation.Inv.tick (h : g.Inv p) : (g.tick p).Inv p := h.tickToggle.tickPwm.tickDead

theorem Actuation.Inv.claimStep (h : g.Inv p) (hpend : g.togglePending = true) : g.claimStep.Inv p :=
  { h with
    claimPending := fun _ => hpend
    deadLow := fun hk => nomatch hk }

theorem Actuation.Inv.consumeStep (h : g.Inv p) : g.consumeStep.Inv p :=
  { h with
    claimPending := fun hk => nomatch hk
    deadLow := fun _ => ⟨rfl, rfl⟩
    notBothHigh := fun hboth => nomatch hboth.1
    deadRange := Nat.zero_le _ }

/-- A drive sets one output, and clears the other (10_state.md R34). -/
theorem Actuation.Inv.driveStep (h : g.Inv p) : g.driveStep.Inv p := by
  unfold Actuation.driveStep Actuation.drive
  split
  · exact { h with
      claimPending := fun hk => nomatch hk
      deadLow := fun hk => nomatch hk
      notBothHigh := fun hboth => nomatch hboth.2 }
  · exact { h with
      claimPending := fun hk => nomatch hk
      deadLow := fun hk => nomatch hk
      notBothHigh := fun hboth => nomatch hboth.1 }

theorem Actuation.Inv.handler (h : g.Inv p) : (g.handler p).Inv p := by
  unfold Actuation.handler
  split
  · split
    · exact h.claimStep ‹_›
    · exact h
  · exact h.consumeStep
  · split
    · exact h.driveStep
    · exact h

end ActuationGroup

/-! ### The machine -/

section Machine

variable {s s' : State}

theorem State.Inv.withFr (h : s.Inv) {f : Framer} (hf : f.Inv s.params) : (s.withFr f).Inv := ⟨h.params, hf, h.act⟩

theorem State.Inv.withAct (h : s.Inv) {g : Actuation} (hg : g.Inv s.params) : (s.withAct g).Inv :=
  ⟨h.params, h.fr, hg⟩

theorem State.Inv.withEnv (h : s.Inv) (e : Env) : (s.withEnv e).Inv := ⟨h.params, h.fr, h.act⟩

theorem State.Inv.of_blockKept (h : s.Inv) (hk : BlockKept s s') : s'.Inv := by
  obtain ⟨hparams, hfr, hact, -, -⟩ := hk
  constructor
  · rw [hparams]; exact h.params
  · rw [hparams, hfr]; exact h.fr
  · rw [hparams, hact]; exact h.act

theorem State.inv_powerOn {p : Params} (hp : p.Valid) : (State.powerOn p).Inv :=
  ⟨hp, Framer.inv_atReset p, Actuation.inv_atReset hp⟩

theorem exec_keeps_inv {i : Instr} (h : s.Inv) (hx : exec i s = .next s') : s'.Inv := by
  obtain ⟨opc, a, d, he, hopc⟩ | ⟨pct, -, he⟩ | ⟨hz, -, he⟩ := exec_next_cases i s
  all_goals rw [he] at hx; cases hx
  · exact ⟨h.params, h.fr.issueFramer h.params hopc a d, h.act⟩
  · exact h.withAct (h.act.setDuty pct)
  · exact h.withAct (h.act.setHz h.params hz)

theorem hostTurn_keeps_inv (h : s.Inv) (ht : hostTurn s = .next s') : s'.Inv := by
  obtain hk | ⟨v, e, -, -, rfl⟩ | ⟨v, i, -, -, hx⟩ := hostTurn_cases ht
  · exact h.of_blockKept hk
  · exact (h.withEnv _).withFr h.fr.illegal
  · exact exec_keeps_inv (h.withEnv _) hx

theorem framerTurn_keeps_inv (h : s.Inv) (ht : framerTurn s = .next s') : s'.Inv := by
  obtain ⟨-, rfl⟩ | ⟨-, -, -, rfl⟩ | ⟨-, hw, -, rfl⟩ | ⟨m, hb, hw, hm, rfl⟩ := framerTurn_next_cases ht
  · exact h
  · exact h
  · exact h.withFr (h.fr.endWait hw)
  · obtain ⟨hact, hparams, -⟩ := microStep_frame m s
    constructor
    · rw [hparams]; exact h.params
    · rw [hparams]; exact h.fr.microStep h.params hb hw hm
    · rw [hparams, hact]; exact h.act

theorem runTurn_keeps_inv {t : Turn} (h : s.Inv) (ht : runTurn t s = .next s') : s'.Inv := by
  cases t with
  | host => exact hostTurn_keeps_inv h ht
  | framer => exact framerTurn_keeps_inv h ht
  | tick => cases ht; exact (h.withFr h.fr.tick).withAct h.act.tick
  | handler => cases ht; exact h.withAct h.act.handler
  | loader => cases ht; exact h.withAct h.act.load
  | reset => cases ht; exact (h.withFr (Framer.inv_atReset _)).withAct (Actuation.inv_atReset h.params)

end Machine

/-- Settles O45: whichever agent has the turn, its operations keep the invariant (`runTurn_keeps_inv`). -/
theorem everyStepKeepsTheInvariant : Obligations.EveryStepKeepsTheInvariant :=
  fun _ _ h hs => runTurn_keeps_inv (h.withEnv _) hs

/-- Settles O44: both groups' reset values are inside their ranges, and the unknown board's parameters are valid. -/
theorem invariantHoldsAtReset : Obligations.InvariantHoldsAtReset :=
  ⟨State.inv_powerOn params_valid, fun _ hp => State.inv_powerOn hp⟩

end Sys2Proof.Machine
end

section
/-! PROOFS. What changes the registers of spec/10_state.md: RESULT (R22), the sticky bits (R24) and TOGGLE_PENDING
(R35). -/

namespace Sys2Proof.Machine

open Sys2Proof.Config

/-- A flag that is kept is not set. -/
theorem not_set_of_kept {b b' : Bool} {C : Prop} (hkept : b' = b) (h0 : b = false) (h1 : b' = true) : C :=
  nomatch h0.symm.trans (hkept.symm.trans h1)

/-! ### RESULT and the sticky bits -/

theorem issueFramer_result (opc : BitVec 4) (a : Byte) (d : Half) (s : State) :
    (issueFramer opc a d s).fr.result = s.fr.result := by
  obtain ⟨-, he⟩ | ⟨-, he⟩ | ⟨-, -, he⟩ := issueFramer_fr_cases opc a d s
  · rw [he]; rfl
  · rw [he]
  · rw [he]; rfl

theorem issueFramer_ill (opc : BitVec 4) (a : Byte) (d : Half) (s : State) :
    (issueFramer opc a d s).fr.ill = s.fr.ill := by
  obtain ⟨-, he⟩ | ⟨-, he⟩ | ⟨-, -, he⟩ := issueFramer_fr_cases opc a d s
  · rw [he]; rfl
  · rw [he]
  · rw [he]; rfl

/-- Only a busy framer gets OVR (30_encoding.md R88). -/
theorem issueFramer_ovr (opc : BitVec 4) (a : Byte) (d : Half) (s : State) :
    (issueFramer opc a d s).fr.ovr = (s.fr.ovr || s.fr.busy) := by
  obtain ⟨hb, he⟩ | ⟨hb, he⟩ | ⟨hb, -, he⟩ := issueFramer_fr_cases opc a d s
  · rw [he, hb, Bool.or_true]; rfl
  · rw [he, hb, Bool.or_false]
  · rw [he, hb, Bool.or_false]; rfl

/-- A command's CMD write keeps RESULT and ILL, and OVR but for a framer command at a busy framer. -/
theorem exec_shown {i : Instr} {s s' : State} (h : exec i s = .next s') :
    s'.fr.result = s.fr.result ∧ s'.fr.ill = s.fr.ill ∧
      s'.fr.ovr = (s.fr.ovr || (isFramerCommand i && s.fr.busy)) := by
  cases hi : isFramerCommand i with
  | true =>
    obtain ⟨opc, a, d, he⟩ := exec_framerCommand hi
    rw [he] at h; cases h
    exact ⟨issueFramer_result opc a d s, issueFramer_ill opc a d s, issueFramer_ovr opc a d s⟩
  | false =>
    obtain ⟨u, he⟩ := exec_actuationCommand hi
    rw [he] at h; cases h
    exact ⟨rfl, rfl, (Bool.or_false _).symm⟩

theorem hostTurn_result {s s' : State} (h : hostTurn s = .next s') : s'.fr.result = s.fr.result := by
  obtain hk | ⟨v, e, -, -, rfl⟩ | ⟨v, i, -, -, hx⟩ := hostTurn_cases h
  · rw [hk.fr]
  · rfl
  · exact (exec_shown hx).1

/-- Settles O26: RESULT is kept by every turn but those the statement names, the framer's by
`framerTurn_shownKept`. -/
theorem onlyFinAndIdchkWriteResult : Obligations.OnlyFinAndIdchkWriteResult := by
  intro s s' h hne
  rw [step] at h
  cases ht : s.nextTurn with
  | reset => exact .inl rfl
  | framer =>
    rw [ht] at h
    obtain hk | ⟨hb, hm, -⟩ | ⟨kind, hb, hm, he⟩ := framerTurn_shownKept h
    · exact absurd hk.result hne
    · exact .inr ⟨rfl, hb, .inr (.inr hm)⟩
    · cases kind with
      | none => exact absurd (congrArg Framer.result he) hne
      | v16 => exact .inr ⟨rfl, hb, .inl hm⟩
      | raw => exact .inr ⟨rfl, hb, .inr (.inl hm)⟩
  | host => rw [ht] at h; exact absurd (hostTurn_result h) hne
  | tick => rw [ht] at h; cases h; exact absurd s.fr.shownKept_tick.result hne
  | handler => rw [ht] at h; cases h; exact absurd rfl hne
  | loader => rw [ht] at h; cases h; exact absurd rfl hne

/-- A host turn keeps both sticky bits, or sets one of them by a CMD write: ILL by an illegal word, OVR by a framer
command while the framer is busy (10_state.md R24). -/
theorem hostTurn_sticky {s s' : State} (h : hostTurn s = .next s') :
    (s'.fr.ovr = s.fr.ovr ∧ s'.fr.ill = s.fr.ill) ∨
    (s'.fr.ovr = s.fr.ovr ∧ s'.fr.ill = true ∧ ∃ v e, s.nextHostStep = .wr 0 4 v ∧ decode v = .error e) ∨
    (s'.fr.ovr = true ∧ s'.fr.ill = s.fr.ill ∧ s.fr.busy = true ∧
      ∃ v i, s.nextHostStep = .wr 0 4 v ∧ decode v = .ok i ∧ isFramerCommand i = true) := by
  obtain hk | ⟨v, e, hv, hd, rfl⟩ | ⟨v, i, hv, hd, hx⟩ := hostTurn_cases h
  · exact .inl ⟨by rw [hk.fr], by rw [hk.fr]⟩
  · exact .inr (.inl ⟨rfl, rfl, v, e, hv, hd⟩)
  · obtain ⟨-, hill, hovr⟩ := exec_shown hx
    cases hset : isFramerCommand i && s.fr.busy with
    | true =>
      obtain ⟨hi, hb⟩ := (Bool.and_eq_true _ _).mp hset
      rw [State.afterHostStep_fr, hset, Bool.or_true] at hovr
      exact .inr (.inr ⟨hovr, hill, hb, v, i, hv, hd, hi⟩)
    | false =>
      rw [State.afterHostStep_fr, hset, Bool.or_false] at hovr
      exact .inl ⟨hovr, hill⟩

/-- No turn but the host's and RESET's touches a sticky bit. -/
theorem runTurn_sticky_kept {t : Turn} {s s' : State} (ht : t ≠ .host) (hr : t ≠ .reset)
    (h : runTurn t s = .next s') : s'.fr.ovr = s.fr.ovr ∧ s'.fr.ill = s.fr.ill := by
  cases t with
  | host => exact absurd rfl ht
  | framer =>
    obtain hk | ⟨-, -, he⟩ | ⟨kind, -, -, he⟩ := framerTurn_shownKept h
    · exact ⟨hk.ovr, hk.ill⟩
    · rw [he]; exact ⟨rfl, rfl⟩
    · rw [he]; exact ⟨rfl, rfl⟩
  | tick => cases h; exact ⟨s.fr.shownKept_tick.ovr, s.fr.shownKept_tick.ill⟩
  | handler => cases h; exact ⟨rfl, rfl⟩
  | loader => cases h; exact ⟨rfl, rfl⟩
  | reset => exact absurd rfl hr

/-- Settles O47: the host's turn sets a sticky bit only by the word the statement names (`hostTurn_sticky`), and the
other turns keep both. -/
theorem stickyBitsStay : Obligations.StickyBitsStay := by
  intro s s' h hr
  rw [step] at h
  by_cases ht : s.nextTurn = .host
  · rw [ht] at h
    obtain ⟨hovr, hill⟩ | ⟨hovr, hill, v, e, hv, hd⟩ | ⟨hovr, hill, hb, v, i, hv, hd, hi⟩ :=
      hostTurn_sticky (s := s.afterTurn) h
    · exact ⟨fun h1 => hovr.trans h1, fun h1 => hill.trans h1, not_set_of_kept hovr, not_set_of_kept hill⟩
    · exact ⟨fun h1 => hovr.trans h1, fun _ => hill, not_set_of_kept hovr,
        fun _ _ => ⟨ht, v, e, hv, hd⟩⟩
    · exact ⟨fun _ => hovr, fun h1 => hill.trans h1, fun _ _ => ⟨ht, hb, v, i, hv, hd, hi⟩,
        not_set_of_kept hill⟩
  · obtain ⟨hovr, hill⟩ := runTurn_sticky_kept ht hr h
    exact ⟨fun h1 => hovr.trans h1, fun h1 => hill.trans h1, not_set_of_kept hovr, not_set_of_kept hill⟩

/-! ### TOGGLE_PENDING -/

theorem Actuation.load_togglePending (g : Actuation) : g.load.togglePending = g.togglePending := by
  unfold Actuation.load
  split <;> rfl

theorem Actuation.tickPwm_togglePending (p : Params) (g : Actuation) :
    (g.tickPwm p).togglePending = g.togglePending := by
  unfold Actuation.tickPwm
  split
  · exact Actuation.load_togglePending _
  · rfl

theorem Actuation.tickDead_togglePending (p : Params) (g : Actuation) :
    (g.tickDead p).togglePending = g.togglePending := by
  unfold Actuation.tickDead
  split <;> rfl

/-- A tick sets TOGGLE_PENDING where the running toggle timer wraps, and else keeps it (46_actuation_engine.md R171). -/
theorem Actuation.tick_togglePending (p : Params) (g : Actuation) :
    (g.togRun = true ∧ g.togReload + p.reloadOffset ≤ g.togCnt + 1 ∧ (g.tick p).togglePending = true) ∨
      (g.tick p).togglePending = g.togglePending := by
  rw [Actuation.tick, Actuation.tickDead_togglePending, Actuation.tickPwm_togglePending, Actuation.tickToggle]
  split
  · split
    · exact .inl ⟨‹_›, ‹_›, rfl⟩
    · exact .inr rfl
  · exact .inr rfl

/-- The handler clears TOGGLE_PENDING in the claim phase, and else keeps it (R174 to R176). -/
theorem Actuation.handler_togglePending (p : Params) (g : Actuation) :
    (g.hbPhase = .claim ∧ (g.handler p).togglePending = false) ∨ (g.handler p).togglePending = g.togglePending := by
  unfold Actuation.handler
  split
  · split
    · exact .inr rfl
    · exact .inr rfl
  · exact .inl ⟨‹_›, rfl⟩
  · split
    · unfold Actuation.driveStep Actuation.drive
      split <;> exact .inr rfl
    · exact .inr rfl

theorem Actuation.setHz_togglePending (p : Params) (g : Actuation) (hz : BitVec 24) :
    (g.setHz p hz).togglePending = g.togglePending := by
  unfold Actuation.setHz
  split <;> rfl

theorem hostTurn_togglePending {s s' : State} (h : hostTurn s = .next s') :
    s'.act.togglePending = s.act.togglePending := by
  obtain hk | ⟨v, e, -, -, rfl⟩ | ⟨v, i, -, -, hx⟩ := hostTurn_cases h
  · rw [hk.act]
  · rfl
  · obtain ⟨opc, a, d, he, -⟩ | ⟨pct, -, he⟩ | ⟨hz, -, he⟩ := exec_next_cases i s.afterHostStep
    all_goals rw [he] at hx; cases hx
    · rfl
    · rfl
    · exact Actuation.setHz_togglePending _ _ _

/-- What a turn does to TOGGLE_PENDING: a wrap sets it, a consume and RESET clear it, every other turn keeps it. -/
theorem runTurn_togglePending {t : Turn} {s s' : State} (h : runTurn t s = .next s') :
    (t = .tick ∧ s.act.togRun = true ∧ s.act.togReload + s.params.reloadOffset ≤ s.act.togCnt + 1 ∧
      s'.act.togglePending = true) ∨
    ((t = .reset ∨ (t = .handler ∧ s.act.hbPhase = .claim)) ∧ s'.act.togglePending = false) ∨
    s'.act.togglePending = s.act.togglePending := by
  cases t with
  | host => exact .inr (.inr (hostTurn_togglePending h))
  | framer => exact .inr (.inr (by rw [(framerTurn_frame h).2.1]))
  | tick =>
    cases h
    exact (s.act.tick_togglePending s.params).imp (fun hwrap => ⟨rfl, hwrap⟩) .inr
  | handler =>
    cases h
    exact .inr ((s.act.handler_togglePending s.params).imp (fun ⟨hk, hc⟩ => ⟨.inr ⟨rfl, hk⟩, hc⟩) id)
  | loader => cases h; exact .inr (.inr s.act.load_togglePending)
  | reset => cases h; exact .inr (.inl ⟨.inl rfl, rfl⟩)

/-- Settles O42, from what each turn does to the flag (`runTurn_togglePending`). -/
theorem onlyTheTimerSetsThePendingFlag : Obligations.OnlyTheTimerSetsThePendingFlag := by
  intro s s' h
  obtain ⟨ht, hrun, hwrap, hset⟩ | ⟨hcause, hclear⟩ | hkept := runTurn_togglePending (s := s.afterTurn) h
  · exact ⟨fun _ _ => ⟨ht, hrun, hwrap⟩, fun _ h0 => (nomatch hset.symm.trans h0)⟩
  · exact ⟨fun _ h1 => (nomatch hclear.symm.trans h1), fun _ _ => hcause⟩
  · exact ⟨not_set_of_kept hkept, fun h1 h0 => not_set_of_kept hkept.symm h0 h1⟩

end Sys2Proof.Machine
end

section
/-! PROOFS. The two groups of the block's state do not reach each other (spec/10_state.md R20): two machines that agree
on one group keep agreeing on it, turn by turn. -/

namespace Sys2Proof.Machine

open Sys2Proof.Config

/-! ### Two machines under one schedule -/

theorem hostTurn_of_listed {s : State} {h : HostStep} {hp : List HostStep} (hl : s.env.hostProg = h :: hp) :
    hostTurn s = runHostStep h s.afterHostStep := by
  simp only [hostTurn, State.nextHostStep, hl]

/-- No turn but the host's touches the host's program. -/
theorem runTurn_hostProg {t : Turn} {s s' : State} (ht : t ≠ .host) (h : runTurn t s = .next s') :
    s'.env.hostProg = s.env.hostProg := by
  cases t with
  | host => exact absurd rfl ht
  | framer => exact (framerTurn_frame h).2.2
  | tick => cases h; rfl
  | handler => cases h; rfl
  | loader => cases h; rfl
  | reset => cases h; rfl

/-- A host turn uses up at most one step of the program, and no other turn uses one up. -/
theorem runTurn_hostProg_length {t : Turn} {s s' : State} (h : runTurn t s = .next s') :
    s.env.hostProg.length ≤ s'.env.hostProg.length + [t].count .host := by
  by_cases ht : t = .host
  · subst ht
    have hcount : [Turn.host].count .host = 1 := rfl
    have hprog := runHostStep_hostProg (s := s.afterHostStep) h
    have htail : s.env.hostProg.tail.length = s.env.hostProg.length - 1 := List.length_tail
    rw [State.afterHostStep_env_hostProg] at hprog
    split at hprog
    · rw [hprog, List.length_cons]; omega
    · rw [hprog]; omega
  · rw [runTurn_hostProg ht h]
    exact Nat.le_add_right _ _

/-- A relation of two machines that every turn keeps, the host's where a step of its program is listed, is kept by
every schedule whose host turns are all listed. -/
theorem play_keeps_relation {R : State → State → Prop} (hcounted : ∀ s1 s2, R s1 s2 → R s1.counted s2.counted)
    (hturn : ∀ t s1 s2 s1' s2', R s1 s2 → (t = .host → s1.env.hostProg ≠ []) →
      runTurn t s1 = .next s1' → runTurn t s2 = .next s2' → R s1' s2')
    {ts : List Turn} {s1 s2 s1' s2' : State} (hR : R s1 s2) (hlisted : ts.count .host ≤ s1.env.hostProg.length)
    (h1 : play ts s1 = .next s1') (h2 : play ts s2 = .next s2') : R s1' s2' := by
  induction ts generalizing s1 s2 with
  | nil => cases h1; cases h2; exact hR
  | cons t ts ih =>
    obtain ⟨u1, hu1, hplay1⟩ := play_cons_next h1
    obtain ⟨u2, hu2, hplay2⟩ := play_cons_next h2
    have hcount : (t :: ts).count .host = [t].count .host + ts.count .host := List.count_append (l₁ := [t])
    have hne : t = .host → s1.env.hostProg ≠ [] := by
      rintro rfl hnil
      simp [hnil] at hlisted
    have hleft : s1.env.hostProg.length ≤ u1.env.hostProg.length + [t].count .host :=
      runTurn_hostProg_length (s := s1.counted) hu1
    exact ih (hturn t _ _ _ _ (hcounted s1 s2 hR) hne hu1 hu2) (by omega) hplay1 hplay2

/-! ### The actuation group -/

/-- Two machines that agree on everything the actuation group depends on. WAITIDLE is left out: how long the host stays
at it depends on BUSY. -/
structure ActuationAgrees (s1 s2 : State) : Prop where
  params : s1.params = s2.params
  act : s1.act = s2.act
  hostProg : s1.env.hostProg = s2.env.hostProg
  noWaitIdle : .waitIdle ∉ s1.env.hostProg

section ActuationGroup

variable {s1 s2 s1' s2' : State}

/-- Machines that agree still agree once both have an actuation group made in the same way from what they agree on. -/
theorem ActuationAgrees.of_act (hR : ActuationAgrees s1 s2) (hp1 : s1'.params = s1.params)
    (hp2 : s2'.params = s2.params) (hact : s1'.act = s2'.act) (hh1 : s1'.env.hostProg = s1.env.hostProg)
    (hh2 : s2'.env.hostProg = s2.env.hostProg) : ActuationAgrees s1' s2' where
  params := by rw [hp1, hp2, hR.params]
  act := hact
  hostProg := by rw [hh1, hh2, hR.hostProg]
  noWaitIdle := by rw [hh1]; exact hR.noWaitIdle

theorem ActuationAgrees.exec {i : Instr} (hR : ActuationAgrees s1 s2) (h1 : exec i s1 = .next s1')
    (h2 : exec i s2 = .next s2') : ActuationAgrees s1' s2' := by
  cases hi : isFramerCommand i with
  | true =>
    obtain ⟨opc, a, d, he⟩ := exec_framerCommand hi
    rw [he] at h1 h2; cases h1; cases h2
    exact hR.of_act rfl rfl hR.act rfl rfl
  | false =>
    obtain ⟨u, he⟩ := exec_actuationCommand hi
    rw [he] at h1 h2; cases h1; cases h2
    exact hR.of_act rfl rfl (congrArg₂ u hR.params hR.act) rfl rfl

theorem ActuationAgrees.issueWord {v : Word} (hR : ActuationAgrees s1 s2) (h1 : issueWord v s1 = .next s1')
    (h2 : issueWord v s2 = .next s2') : ActuationAgrees s1' s2' := by
  unfold Machine.issueWord at h1 h2
  cases hd : decode v with
  | error e => rw [hd] at h1 h2; cases h1; cases h2; exact hR.of_act rfl rfl hR.act rfl rfl
  | ok i => rw [hd] at h1 h2; exact hR.exec h1 h2

theorem ActuationAgrees.runHostStep {h : HostStep} (hR : ActuationAgrees s1 s2) (hw : h ≠ .waitIdle)
    (h1 : runHostStep h s1 = .next s1') (h2 : runHostStep h s2 = .next s2') : ActuationAgrees s1' s2' := by
  by_cases hcmd : ∃ v, h = .wr 0 4 v
  · obtain ⟨v, rfl⟩ := hcmd
    exact hR.issueWord h1 h2
  · have k1 := runHostStep_keeps_block (not_exists.mp hcmd) h1
    have k2 := runHostStep_keeps_block (not_exists.mp hcmd) h2
    have hact : s1'.act = s2'.act := by rw [k1.act, k2.act, hR.act]
    have hprog1 := runHostStep_hostProg h1
    have hprog2 := runHostStep_hostProg h2
    rw [if_neg (fun hc => hw hc.1)] at hprog1 hprog2
    exact hR.of_act k1.params k2.params hact hprog1 hprog2

theorem ActuationAgrees.hostTurn (hR : ActuationAgrees s1 s2) (hne : s1.env.hostProg ≠ [])
    (h1 : hostTurn s1 = .next s1') (h2 : hostTurn s2 = .next s2') : ActuationAgrees s1' s2' := by
  obtain ⟨h, hp, hl⟩ := List.exists_cons_of_ne_nil hne
  rw [hostTurn_of_listed hl] at h1
  rw [hostTurn_of_listed (hR.hostProg ▸ hl)] at h2
  have hw : h ≠ .waitIdle := by
    rintro rfl
    exact hR.noWaitIdle (by simp [hl])
  have hafter : ActuationAgrees s1.afterHostStep s2.afterHostStep :=
    ⟨hR.params, hR.act, congrArg List.tail hR.hostProg, fun hmem => hR.noWaitIdle (List.mem_of_mem_tail hmem)⟩
  exact hafter.runHostStep hw h1 h2

theorem ActuationAgrees.runTurn {t : Turn} (hR : ActuationAgrees s1 s2) (hne : t = .host → s1.env.hostProg ≠ [])
    (h1 : runTurn t s1 = .next s1') (h2 : runTurn t s2 = .next s2') : ActuationAgrees s1' s2' := by
  cases t with
  | host => exact hR.hostTurn (hne rfl) h1 h2
  | framer =>
    obtain ⟨hp1, ha1, hh1⟩ := framerTurn_frame h1
    obtain ⟨hp2, ha2, hh2⟩ := framerTurn_frame h2
    exact hR.of_act hp1 hp2 (by rw [ha1, ha2, hR.act]) hh1 hh2
  | tick => cases h1; cases h2; exact hR.of_act rfl rfl (congrArg₂ Actuation.tick hR.params hR.act) rfl rfl
  | handler => cases h1; cases h2; exact hR.of_act rfl rfl (congrArg₂ Actuation.handler hR.params hR.act) rfl rfl
  | loader => cases h1; cases h2; exact hR.of_act rfl rfl (congrArg Actuation.load hR.act) rfl rfl
  | reset => cases h1; cases h2; exact hR.of_act rfl rfl (congrArg Actuation.atReset hR.params) rfl rfl

end ActuationGroup

/-- Settles O48: every turn makes the next actuation group from what the machines agree on
(`ActuationAgrees.runTurn`). -/
theorem actuationIgnoresTheFramer : Obligations.ActuationIgnoresTheFramer := by
  intro s1 s2 s1' s2' ts hparams hact hprog hlisted hwait h1 h2
  have hR : ActuationAgrees s1' s2' :=
    play_keeps_relation (fun _ _ hR => ⟨hR.params, hR.act, hR.hostProg, hR.noWaitIdle⟩)
      (fun _ _ _ _ _ hR => hR.runTurn) ⟨hparams, hact, hprog, hwait⟩ hlisted h1 h2
  exact hR.act

/-! ### The framer group -/

/-- Two machines that agree on everything the framer group and the bus depend on. -/
structure FramerAgrees (s1 s2 : State) : Prop where
  params : s1.params = s2.params
  fr : s1.fr = s2.fr
  busHist : s1.busHist = s2.busHist
  oracle : s1.env.oracle = s2.env.oracle
  hostProg : s1.env.hostProg = s2.env.hostProg

section FramerGroup

variable {s1 s2 s1' s2' : State}

theorem FramerAgrees.nextAnswer (hR : FramerAgrees s1 s2) : s1.nextAnswer = s2.nextAnswer := by
  simp only [State.nextAnswer, hR.oracle, hR.busHist]

theorem FramerAgrees.withFr (hR : FramerAgrees s1 s2) {f1 f2 : Framer} (hf : f1 = f2) :
    FramerAgrees (s1.withFr f1) (s2.withFr f2) := ⟨hR.params, hf, hR.busHist, hR.oracle, hR.hostProg⟩

theorem FramerAgrees.withAct (hR : FramerAgrees s1 s2) (g1 g2 : Actuation) :
    FramerAgrees (s1.withAct g1) (s2.withAct g2) := ⟨hR.params, hR.fr, hR.busHist, hR.oracle, hR.hostProg⟩

theorem FramerAgrees.busWrite (hR : FramerAgrees s1 s2) (bytes : List Byte) :
    FramerAgrees (s1.busWrite bytes) (s2.busWrite bytes) where
  params := hR.params
  fr := hR.fr
  busHist := by rw [State.busWrite_busHist, State.busWrite_busHist, hR.busHist, hR.nextAnswer]
  oracle := congrArg List.tail hR.oracle
  hostProg := hR.hostProg

theorem FramerAgrees.busRead (hR : FramerAgrees s1 s2) : FramerAgrees s1.busRead s2.busRead where
  params := hR.params
  fr := hR.fr
  busHist := by rw [State.busRead_busHist, State.busRead_busHist, hR.busHist, hR.nextAnswer]
  oracle := congrArg List.tail hR.oracle
  hostProg := hR.hostProg

theorem FramerAgrees.microStep (hR : FramerAgrees s1 s2) (m : MicroOp) :
    FramerAgrees (microStep m s1) (microStep m s2) := by
  cases m with
  | tx bytes => exact (hR.busWrite bytes).withFr (by rw [hR.nextAnswer, hR.fr, hR.params])
  | rx k => exact hR.busRead.withFr (by rw [hR.nextAnswer, hR.fr, hR.params])
  | idchk => exact hR.withFr (by rw [hR.fr, hR.params])
  | waitSettle => exact hR.withFr (by rw [hR.fr, hR.params])
  | fin kind => exact hR.withFr (by rw [hR.fr])

/-- What the framer's turn does is decided by BUSY, the wait and the micro-operation at FR.PC, on which the machines
agree. -/
theorem FramerAgrees.framerTurn (hR : FramerAgrees s1 s2) (h1 : framerTurn s1 = .next s1')
    (h2 : framerTurn s2 = .next s2') : FramerAgrees s1' s2' := by
  unfold Machine.framerTurn waitStep at h1 h2
  rw [← hR.fr, ← hR.params] at h2
  split at h1
  · rw [if_pos ‹_›] at h2
    cases h1; cases h2; exact hR
  · rw [if_neg ‹_›] at h2
    split at h1
    · rw [if_pos ‹_›] at h2
      split at h1
      · rw [if_pos ‹_›] at h2
        cases h1; cases h2; exact hR.withFr rfl
      · rw [if_neg ‹_›] at h2
        cases h1; cases h2; exact hR
    · rw [if_neg ‹_›] at h2
      cases hm : s1.fr.current s1.params with
      | none => rw [hm] at h1; cases h1
      | some m => rw [hm] at h1 h2; cases h1; cases h2; exact hR.microStep m

theorem FramerAgrees.exec {i : Instr} (hR : FramerAgrees s1 s2) (h1 : exec i s1 = .next s1')
    (h2 : exec i s2 = .next s2') : FramerAgrees s1' s2' := by
  cases hi : isFramerCommand i with
  | true =>
    obtain ⟨opc, a, d, he⟩ := exec_framerCommand hi
    rw [he] at h1 h2; cases h1; cases h2
    exact hR.withFr (by rw [hR.fr])
  | false =>
    obtain ⟨u, he⟩ := exec_actuationCommand hi
    rw [he] at h1 h2; cases h1; cases h2
    exact hR.withAct _ _

theorem FramerAgrees.issueWord {v : Word} (hR : FramerAgrees s1 s2) (h1 : issueWord v s1 = .next s1')
    (h2 : issueWord v s2 = .next s2') : FramerAgrees s1' s2' := by
  unfold Machine.issueWord at h1 h2
  cases hd : decode v with
  | error e => rw [hd] at h1 h2; cases h1; cases h2; exact hR.withFr (congrArg Framer.illegal hR.fr)
  | ok i => rw [hd] at h1 h2; exact hR.exec h1 h2

theorem FramerAgrees.runHostStep {h : HostStep} (hR : FramerAgrees s1 s2) (h1 : runHostStep h s1 = .next s1')
    (h2 : runHostStep h s2 = .next s2') : FramerAgrees s1' s2' := by
  by_cases hcmd : ∃ v, h = .wr 0 4 v
  · obtain ⟨v, rfl⟩ := hcmd
    exact hR.issueWord h1 h2
  · have k1 := runHostStep_keeps_block (not_exists.mp hcmd) h1
    have k2 := runHostStep_keeps_block (not_exists.mp hcmd) h2
    exact {
      params := by rw [k1.params, k2.params, hR.params]
      fr := by rw [k1.fr, k2.fr, hR.fr]
      busHist := by rw [k1.busHist, k2.busHist, hR.busHist]
      oracle := by rw [k1.oracle, k2.oracle, hR.oracle]
      hostProg := by rw [runHostStep_hostProg h1, runHostStep_hostProg h2, hR.fr, hR.hostProg] }

theorem FramerAgrees.hostTurn (hR : FramerAgrees s1 s2) (hne : s1.env.hostProg ≠ [])
    (h1 : hostTurn s1 = .next s1') (h2 : hostTurn s2 = .next s2') : FramerAgrees s1' s2' := by
  obtain ⟨h, hp, hl⟩ := List.exists_cons_of_ne_nil hne
  rw [hostTurn_of_listed hl] at h1
  rw [hostTurn_of_listed (hR.hostProg ▸ hl)] at h2
  have hafter : FramerAgrees s1.afterHostStep s2.afterHostStep :=
    ⟨hR.params, hR.fr, hR.busHist, hR.oracle, congrArg List.tail hR.hostProg⟩
  exact hafter.runHostStep h1 h2

theorem FramerAgrees.runTurn {t : Turn} (hR : FramerAgrees s1 s2) (hne : t = .host → s1.env.hostProg ≠ [])
    (h1 : runTurn t s1 = .next s1') (h2 : runTurn t s2 = .next s2') : FramerAgrees s1' s2' := by
  cases t with
  | host => exact hR.hostTurn (hne rfl) h1 h2
  | framer => exact hR.framerTurn h1 h2
  | tick => cases h1; cases h2; exact (hR.withFr (congrArg Framer.tick hR.fr)).withAct _ _
  | handler => cases h1; cases h2; exact hR.withAct _ _
  | loader => cases h1; cases h2; exact hR.withAct _ _
  | reset => cases h1; cases h2; exact (hR.withFr rfl).withAct _ _

end FramerGroup

/-- Settles O49: every turn makes the next framer group and bus history from what the machines agree on
(`FramerAgrees.runTurn`). -/
theorem framerIgnoresTheActuation : Obligations.FramerIgnoresTheActuation := by
  intro s1 s2 s1' s2' ts hparams hfr hhist horacle hprog hlisted h1 h2
  have hR : FramerAgrees s1' s2' :=
    play_keeps_relation (fun _ _ hR => ⟨hR.params, hR.fr, hR.busHist, hR.oracle, hR.hostProg⟩)
      (fun _ _ _ _ _ hR => hR.runTurn) ⟨hparams, hfr, hhist, horacle, hprog⟩ hlisted h1 h2
  exact ⟨hR.fr, hR.busHist⟩

end Sys2Proof.Machine
end

section
/-! PROOFS. The status words and the numeric registers as numbers (spec/10_state.md R21, R38, R39). -/

namespace Sys2Proof.Machine

open Sys2Proof.Config

theorem bit_toNat (b : Bool) : (bit b).toNat = b.toNat := BitVec.toNat_ofBool b

/-! ### FR_STATUS -/

theorem Framer.statusWord_toNat (f : Framer) : f.statusWord.toNat =
    f.busy.toNat + 16 * f.err.code.toNat + 256 * f.ovr.toNat + 512 * f.ill.toNat + 1024 * f.idmm.toNat := by
  change (0#21 ++ bit f.idmm ++ bit f.ill ++ bit f.ovr ++ f.err.code ++ 0#3 ++ bit f.busy).toNat = _
  simp only [toNat_append_eq, bit_toNat, BitVec.toNat_ofNat]
  omega

/-- Settles O51: the word is `Framer.statusWord_toNat`'s sum, the codes those of 60_exceptions.md R200. -/
theorem frStatusShowsItsFields : Obligations.FrStatusShowsItsFields := fun s =>
  ⟨rfl, s.fr.statusWord, rfl, s.fr.statusWord_toNat, congrArg ErrCode.code, congrArg ErrCode.code,
    congrArg ErrCode.code⟩

/-! ### ACT_STATUS -/

theorem Actuation.statusWord_toNat (g : Actuation) : g.statusWord.toNat =
    g.outA.toNat + 2 * g.outB.toNat + 4 * g.togglePending.toNat + 8 * g.togRun.toNat + 16 * g.hbPhase.code.toNat +
      64 * (dirCode (dirOf g.outA g.outB)).toNat + 256 * g.outPwm.toNat + 65536 * g.duty.toNat +
      16777216 * g.view.code.toNat := by
  change (0#6 ++ g.view.code ++ 0#1 ++ g.duty ++ 0#7 ++ bit g.outPwm ++ dirCode (dirOf g.outA g.outB) ++
    g.hbPhase.code ++ bit g.togRun ++ bit g.togglePending ++ bit g.outB ++ bit g.outA).toNat = _
  simp only [toNat_append_eq, bit_toNat, BitVec.toNat_ofNat]
  omega

theorem Phase.code_toNat (k : Phase) :
    k.code.toNat = match k with | .idle => 0 | .claim => 1 | .deadtime => 2 := by
  cases k <;> rfl

/-- DIR names a direction where exactly one output is high (10_state.md R34). -/
theorem dirCode_toNat (a b : Bool) : (dirCode (dirOf a b)).toNat =
    if a = true ∧ b = false then 1 else if a = false ∧ b = true then 2 else 0 := by
  cases a <;> cases b <;> rfl

theorem Actuation.outPwm_toNat (g : Actuation) : g.outPwm.toNat = if g.pwmCnt < g.ccrActive then 1 else 0 := by
  by_cases hlt : g.pwmCnt < g.ccrActive <;> simp [Actuation.outPwm, hlt]

/-- VIEW shows a pending toggle before one in progress (10_state.md R37). -/
theorem Actuation.view_code_toNat (g : Actuation) : g.view.code.toNat =
    if g.togglePending = true then 1 else if g.hbPhase = .idle then 0 else 2 := by
  unfold Actuation.view
  split
  · rfl
  · split <;> rfl

/-- Settles O52: each field of the word has its number. -/
theorem actStatusShowsItsFields : Obligations.ActStatusShowsItsFields := by
  intro s
  have hword := s.act.statusWord_toNat
  rw [Phase.code_toNat, dirCode_toNat, Actuation.outPwm_toNat, Actuation.view_code_toNat] at hword
  exact ⟨s.act.statusWord, rfl, hword⟩

/-! ### The numeric registers -/

theorem Actuation.toggleHzWord_toNat (g : Actuation) : g.toggleHzWord.toNat = g.togHz.toNat := by
  change (0#8 ++ g.togHz).toNat = _
  simp only [toNat_append_eq, BitVec.toNat_ofNat]
  omega

theorem Actuation.toggleReloadWord_toNat (g : Actuation) (h : g.togReload < 2 ^ 32) :
    g.toggleReloadWord.toNat = g.togReload := by
  rw [Actuation.toggleReloadWord, BitVec.toNat_ofNat, Nat.mod_eq_of_lt h]

theorem Actuation.pwmCcrWord_toNat (g : Actuation) (h : g.ccrActive < 2 ^ 32) : g.pwmCcrWord.toNat = g.ccrActive := by
  rw [Actuation.pwmCcrWord, BitVec.toNat_ofNat, Nat.mod_eq_of_lt h]

theorem Actuation.pwmCcrNextWord_toNat (g : Actuation) (h : g.ccrShadow < 2 ^ 31) :
    g.pwmCcrNextWord.toNat = g.ccrShadow + 2147483648 * g.ccrUpd.toNat := by
  change (bit g.ccrUpd ++ BitVec.ofNat 31 g.ccrShadow).toNat = _
  simp only [toNat_append_eq, bit_toNat, BitVec.toNat_ofNat]
  omega

/-- TOG_RELOAD is in the timer's range while the timer runs, and 0 before (10_state.md R43 line 3, R33). -/
theorem Actuation.Inv.togReload_le {p : Params} {g : Actuation} (h : g.Inv p) : g.togReload ≤ p.toggleReloadMax := by
  cases hrun : g.togRun with
  | true => exact (h.reloadRange hrun).2
  | false =>
    obtain ⟨-, hzero, -⟩ := h.stopped hrun
    rw [hzero]
    exact Nat.zero_le _

/-- Settles O53: the invariant and R6's ranges bound each value below its register's width. -/
theorem numericRegistersShowWholeValues : Obligations.NumericRegistersShowWholeValues := by
  intro s h
  obtain ⟨-, -, -, -, ⟨-, hmax⟩, -, ⟨-, hperiod⟩⟩ := h.params
  have hreload : s.act.togReload ≤ s.params.toggleReloadMax := h.act.togReload_le
  have hactive : s.act.ccrActive ≤ s.params.pwmPeriod := h.act.activeRange
  have hshadow : s.act.ccrShadow ≤ s.params.pwmPeriod := h.act.shadowRange
  exact ⟨⟨_, rfl, s.act.toggleHzWord_toNat⟩,
    ⟨_, rfl, s.act.toggleReloadWord_toNat (by omega)⟩,
    ⟨_, rfl, s.act.pwmCcrWord_toNat (by omega)⟩,
    ⟨_, rfl, s.act.pwmCcrNextWord_toNat (by omega)⟩⟩

end Sys2Proof.Machine
end

section
/-! PROOFS. The host's accesses under the register map (spec/20_memory.md R61): what an access does at a register's
offset, at any other, and at another width. -/

namespace Sys2Proof.Machine

open Sys2Proof.Config

/-! ### The register map -/

/-- The eight registers of R61 stand at the word offsets 0x00 to 0x1C. -/
theorem hostRegister_of_mem (s : State) {off : Nat} (h : off ∈ [0x00, 0x04, 0x08, 0x0C, 0x10, 0x14, 0x18, 0x1C]) :
    ∃ w, hostRegister s off = some w := by
  simp only [List.mem_cons, List.not_mem_nil, or_false] at h
  obtain rfl | rfl | rfl | rfl | rfl | rfl | rfl | rfl := h
  all_goals exact ⟨_, rfl⟩

theorem hostRegister_of_not_mem (s : State) {off : Nat}
    (h : off ∉ [0x00, 0x04, 0x08, 0x0C, 0x10, 0x14, 0x18, 0x1C]) : hostRegister s off = none := by
  unfold hostRegister
  split
  case h_9 => rfl
  all_goals exact absurd (by decide) h

/-! ### Accesses -/

section Accesses

variable {s : State} {off bytes : Nat}

theorem issueWord_of_decode_ok {v : Word} {i : Instr} (h : decode v = .ok i) (s : State) :
    issueWord v s = exec i s := by
  simp only [issueWord, h]

theorem issueWord_of_decode_error {v : Word} {e : Illegal} (h : decode v = .error e) (s : State) :
    issueWord v s = .next (s.withFr s.fr.illegal) := by
  simp only [issueWord, h]

theorem memWrite_cmd (v : Word) (s : State) : memWrite 0x00 4 v s = issueWord v s := rfl

theorem memWrite_of_register {w : Word} (h : hostRegister s off = some w) (h0 : off ≠ 0x00) (v : Word) :
    memWrite off 4 v s = .next s := by
  simp only [memWrite, if_true, if_neg h0, h]

theorem memWrite_of_no_register (h : hostRegister s off = none) (v : Word) :
    memWrite off 4 v s = .refused (.hostOffset off) := by
  have h0 : off ≠ 0x00 := by
    rintro rfl
    cases h
  simp only [memWrite, if_true, if_neg h0, h]

theorem memWrite_of_width (h : bytes ≠ 4) (off : Nat) (v : Word) (s : State) :
    memWrite off bytes v s = .refused (.hostWidth bytes) := if_neg h

theorem memRead_of_register {w : Word} (h : hostRegister s off = some w) (name : String) :
    memRead off 4 name s = .next (s.logRead ⟨name, w⟩) := by
  simp only [memRead, if_true, h]

theorem memRead_of_no_register (h : hostRegister s off = none) (name : String) :
    memRead off 4 name s = .refused (.hostOffset off) := by
  simp only [memRead, if_true, h]

theorem memRead_of_width (h : bytes ≠ 4) (off : Nat) (name : String) (s : State) :
    memRead off bytes name s = .refused (.hostWidth bytes) := if_neg h

theorem runTurn_host_wr {v : Word} (h : s.nextHostStep = .wr off bytes v) :
    runTurn .host s = memWrite off bytes v s.afterHostStep := by
  simp only [runTurn, hostTurn, h, runHostStep]

theorem runTurn_host_rd {name : String} (h : s.nextHostStep = .rd off bytes name) :
    runTurn .host s = memRead off bytes name s.afterHostStep := by
  simp only [runTurn, hostTurn, h, runHostStep]

end Accesses

/-- Settles O50: a host turn at an access is `memWrite` or `memRead` of it, whose cases are the register map's. -/
theorem hostAccessesFollowTheRegisterMap : Obligations.HostAccessesFollowTheRegisterMap := by
  intro s off bytes
  refine ⟨fun v hv => ⟨?cmd, ?readOnly, ?writeOutside, ?writeWidth⟩,
    fun name hn => ⟨?read, ?readOutside, ?readWidth⟩⟩
  case cmd =>
    rintro rfl rfl
    rw [runTurn_host_wr hv, memWrite_cmd]
    exact ⟨fun i hi => issueWord_of_decode_ok hi _, fun e he => issueWord_of_decode_error he _⟩
  case readOnly =>
    rintro rfl hmem
    have h0 : off ≠ 0x00 := by
      rintro rfl
      exact absurd hmem (by decide)
    obtain ⟨w, hw⟩ := hostRegister_of_mem s.afterHostStep (List.mem_cons_of_mem 0x00 hmem)
    rw [runTurn_host_wr hv, memWrite_of_register hw h0]
    rfl
  case writeOutside =>
    rintro rfl hmem
    rw [runTurn_host_wr hv, memWrite_of_no_register (hostRegister_of_not_mem _ hmem)]
  case writeWidth =>
    intro hb
    rw [runTurn_host_wr hv, memWrite_of_width hb]
  case read =>
    rintro rfl hmem
    obtain ⟨w, hw⟩ := hostRegister_of_mem s hmem
    refine ⟨w, hw, ?_, ?_⟩
    · rintro rfl
      exact (Option.some.inj hw).symm
    · rw [runTurn_host_rd hn, memRead_of_register (s := s.afterHostStep) hw]
      rfl
  case readOutside =>
    rintro rfl hmem
    rw [runTurn_host_rd hn, memRead_of_no_register (hostRegister_of_not_mem _ hmem)]
  case readWidth =>
    intro hb
    rw [runTurn_host_rd hn, memRead_of_width hb]

end Sys2Proof.Machine
end

section
/-! PROOFS. The frames a running command sends follow its program (spec/20_memory.md R71, 41_register_protocol.md
R127, R128). FR.PC counts how far the program has come: the acknowledged frames are those of the micro-operations before
it, and a frame is sent only by the `TX` at it. -/

namespace Sys2Proof.Machine

open Sys2Proof.Config

/-! ### The frames of a program -/

theorem sentFrames_take_succ {P : List MicroOp} {k : Nat} {m : MicroOp} (hm : P[k]? = some m) :
    sentFrames (P.take (k + 1)) = sentFrames (P.take k) ++ (sentFrame m).toList := by
  rw [List.take_add_one, hm, sentFrames, List.filterMap_append]
  cases m <;> rfl

theorem sentFrames_take_prefix (P : List MicroOp) (k : Nat) : sentFrames (P.take k) <+: sentFrames P :=
  (List.take_prefix k P).filterMap sentFrame

/-- The frame of the `TX` at place `k` comes after those of the places before it. -/
theorem sentFrames_getElem_of_tx {P : List MicroOp} {k : Nat} {bytes : List Byte} (hm : P[k]? = some (.tx bytes)) :
    (sentFrames P)[(sentFrames (P.take k)).length]? = some bytes := by
  have hprefix : sentFrames (P.take k) ++ [bytes] <+: sentFrames P := by
    have h := sentFrames_take_prefix P (k + 1)
    rwa [sentFrames_take_succ hm] at h
  obtain ⟨rest, hrest⟩ := hprefix
  simp [← hrest]

/-- A program up to its FIN sends all its frames. -/
theorem sentFrames_take_of_fin {p : Params} {f : Framer} {kind : FinKind} (hm : f.current p = some (.fin kind)) :
    sentFrames ((f.program p).take f.pc) = sentFrames (f.program p) := by
  have hlast : f.pc + 1 = (f.program p).length := (prog_fin_iff_last p f.opc f.a f.d f.pc _ hm).mp rfl
  have hall := sentFrames_take_succ (k := f.pc) hm
  rw [hlast, List.take_length] at hall
  simpa [sentFrame] using hall.symm

/-! ### The events of a command -/

/-- Every frame that `new` sends, acknowledged or not, is the one of program `P` after those acknowledged before. -/
def SentInOrder (P : List MicroOp) (new : List BusEvent) : Prop :=
  ∀ pre bytes ok post, new = pre ++ .bw bytes ok :: post →
    (sentFrames P)[(ackedWrites pre).length]? = some bytes

theorem sentInOrder_nil (P : List MicroOp) : SentInOrder P [] := by
  intro pre bytes ok post h
  simp at h

/-- One more event keeps the order if it is no write, or sends the frame after the acknowledged ones. -/
theorem SentInOrder.append {P : List MicroOp} {new : List BusEvent} (h : SentInOrder P new) {e : Option BusEvent}
    (he : ∀ bytes ok, e = some (.bw bytes ok) → (sentFrames P)[(ackedWrites new).length]? = some bytes) :
    SentInOrder P (new ++ e.toList) := by
  intro pre bytes ok post hsplit
  cases e with
  | none => exact h pre bytes ok post (by simpa using hsplit)
  | some e =>
    obtain rfl | ⟨post, last, rfl⟩ := post.eq_nil_or_concat'
    · obtain ⟨rfl, hlast⟩ := List.append_inj' hsplit rfl
      exact he bytes ok (congrArg some (List.singleton_inj.mp hlast))
    · have hsplit : new ++ [e] = (pre ++ .bw bytes ok :: post) ++ [last] := by simpa using hsplit
      exact h pre bytes ok post (List.append_inj' hsplit rfl).1

theorem ackedWrites_append (new : List BusEvent) (e : Option BusEvent) :
    ackedWrites (new ++ e.toList) = ackedWrites new ++ (e.bind ackedWrite).toList := by
  rw [ackedWrites, List.filterMap_append]
  cases e with
  | none => rfl
  | some e => cases h : ackedWrite e <;> simp [ackedWrites, h]

/-! ### A framer that follows its program -/

/-- The framer runs program `P`, and `new` is what it has put on the bus for the micro-operations before FR.PC, with the
attempts so far at the one at FR.PC; a command that has ended without an error stands at its FIN. -/
structure Framer.Follows (p : Params) (P : List MicroOp) (new : List BusEvent) (f : Framer) : Prop where
  program : f.program p = P
  sent : SentInOrder P new
  acked : ackedWrites new = sentFrames (P.take f.pc)
  ended : f.busy = false → f.err = .none → ∃ kind, f.current p = some (.fin kind)

/-- A write event `e`, if there is one, sends the frame of the `TX` at FR.PC. -/
abbrev Framer.SendsOwnFrame (p : Params) (f : Framer) (e : Option BusEvent) : Prop :=
  ∀ bytes ok, e = some (.bw bytes ok) → f.current p = some (.tx bytes)

section Follows

variable {p : Params} {P : List MicroOp} {new : List BusEvent} {f f' : Framer} {e : Option BusEvent} {m : MicroOp}

theorem Framer.follows_of_start (hb : f.busy = true) (hpc : f.pc = 0) : f.Follows p (f.program p) [] where
  program := rfl
  sent := sentInOrder_nil _
  acked := by rw [hpc]; rfl
  ended hidle := nomatch hb.symm.trans hidle

theorem Framer.Follows.sent_append (h : f.Follows p P new) (he : f.SendsOwnFrame p e) :
    SentInOrder P (new ++ e.toList) := by
  refine h.sent.append fun bytes ok hbw => ?_
  have hm : P[f.pc]? = some (.tx bytes) := h.program ▸ he bytes ok hbw
  rw [h.acked]
  exact sentFrames_getElem_of_tx hm

/-- The framer stays at its micro-operation: nothing of it was acknowledged. -/
theorem Framer.Follows.stay (h : f.Follows p P new) (hprog : f'.program p = f.program p) (hpc : f'.pc = f.pc)
    (he : f.SendsOwnFrame p e) (hacked : e.bind ackedWrite = none)
    (hended : f'.busy = false → f'.err = .none → ∃ kind, f.current p = some (.fin kind)) :
    f'.Follows p P (new ++ e.toList) where
  program := hprog.trans h.program
  sent := h.sent_append he
  acked := by rw [ackedWrites_append, hacked, hpc, h.acked]; exact List.append_nil _
  ended := by
    have hcur : f'.current p = f.current p := by rw [Framer.current, hprog, hpc]; rfl
    rw [hcur]
    exact hended

/-- The framer goes on to the next micro-operation: what the one before sends was acknowledged. -/
theorem Framer.Follows.goOn (h : f.Follows p P new) (hprog : f'.program p = f.program p) (hpc : f'.pc = f.pc + 1)
    (hb : f'.busy = true) (hm : f.current p = some m) (he : f.SendsOwnFrame p e)
    (hacked : e.bind ackedWrite = sentFrame m) : f'.Follows p P (new ++ e.toList) where
  program := hprog.trans h.program
  sent := h.sent_append he
  acked := by
    have hmP : P[f.pc]? = some m := h.program ▸ hm
    rw [ackedWrites_append, hacked, hpc, sentFrames_take_succ hmP, h.acked]
  ended hidle := nomatch hb.symm.trans hidle

/-- A failed attempt leaves the framer at its micro-operation, or ends the command with an error. -/
theorem Framer.Follows.failedAttempt (h : f.Follows p P new) (hb : f.busy = true) (he : f.SendsOwnFrame p e)
    (hacked : e.bind ackedWrite = none) : (f.failedAttempt p).Follows p P (new ++ e.toList) := by
  obtain ⟨-, hf⟩ | ⟨-, hf⟩ := failedAttempt_cases p f
  · rw [hf]; exact h.stay rfl rfl he hacked fun hidle => nomatch hb.symm.trans hidle
  · rw [hf]; exact h.stay rfl rfl he hacked fun _ herr => nomatch herr

/-- A backoff ends at the micro-operation it repeats, a settle wait passes its WAITSETTLE (40_bus_transport.md R105). -/
theorem Framer.Follows.endWait (hinv : f.Inv p) (h : f.Follows p P new) (hb : f.busy = true) (hw : f.wkind ≠ .none) :
    f.endWait.Follows p P (new ++ (none : Option BusEvent).toList) := by
  unfold Framer.endWait
  split
  · exact h.stay rfl rfl nofun rfl fun hidle => nomatch hb.symm.trans hidle
  · exact h.goOn rfl rfl hb (hinv.settle ‹_›).1 nofun rfl
  · exact absurd ‹_› hw

theorem Framer.Follows.tick (h : f.Follows p P new) :
    f.tick.Follows p P (new ++ (none : Option BusEvent).toList) := by
  unfold Framer.tick
  split
  · exact h.stay rfl rfl nofun rfl h.ended
  · exact h.stay rfl rfl nofun rfl h.ended

end Follows

/-! ### The turns of an undisturbed schedule -/

section Turns

variable {P : List MicroOp} {new : List BusEvent} {s s' : State}

/-- From `s` to `s'` at most one event was put on the bus, and the framer follows `P` with it. -/
def FollowedTo (P : List MicroOp) (new : List BusEvent) (s s' : State) : Prop :=
  ∃ e : Option BusEvent, s'.busHist = s.busHist ++ e.toList ∧ s'.fr.Follows s'.params P (new ++ e.toList)

/-- A turn without a bus attempt. -/
theorem followedTo_of_silent (hhist : s'.busHist = s.busHist)
    (h : s'.fr.Follows s'.params P (new ++ (none : Option BusEvent).toList)) : FollowedTo P new s s' :=
  ⟨none, hhist.trans (List.append_nil _).symm, h⟩

theorem txStep_followed {bytes : List Byte} (h : s.fr.Follows s.params P new) (hb : s.fr.busy = true)
    (hm : s.fr.current s.params = some (.tx bytes)) : FollowedTo P new s (txStep bytes s) := by
  have hsent : s.fr.SendsOwnFrame s.params (some (.bw bytes (answerOk s.nextAnswer))) := by
    rintro _ _ ⟨⟩
    exact hm
  refine ⟨some (.bw bytes (answerOk s.nextAnswer)), rfl, ?_⟩
  simp only [txStep, State.withFr_fr, State.withFr_params, State.busWrite_params]
  cases ha : s.nextAnswer with
  | fail => rw [ha] at hsent; exact h.failedAttempt hb hsent rfl
  | ok b0 b1 => rw [ha] at hsent; exact h.goOn rfl rfl hb hm hsent rfl

theorem rxStep_followed {k : Latch} (h : s.fr.Follows s.params P new) (hb : s.fr.busy = true)
    (hm : s.fr.current s.params = some (.rx k)) : FollowedTo P new s (rxStep k s) := by
  refine ⟨some (.br 2 (answerBytes s.nextAnswer)), rfl, ?_⟩
  simp only [rxStep, State.withFr_fr, State.withFr_params, State.busRead_params]
  cases s.nextAnswer with
  | fail => exact h.failedAttempt hb nofun rfl
  | ok b0 b1 =>
    cases k with
    | v0 => exact h.goOn rfl rfl hb hm nofun rfl
    | v1 => exact h.goOn rfl rfl hb hm nofun rfl

theorem microStep_followed {m : MicroOp} (h : s.fr.Follows s.params P new) (hb : s.fr.busy = true)
    (hm : s.fr.current s.params = some m) : FollowedTo P new s (microStep m s) := by
  cases m with
  | tx bytes => exact txStep_followed h hb hm
  | rx k => exact rxStep_followed h hb hm
  | idchk => exact followedTo_of_silent rfl (h.goOn rfl rfl hb hm nofun rfl)
  | waitSettle =>
    exact followedTo_of_silent rfl (h.stay rfl rfl nofun rfl fun hidle => nomatch hb.symm.trans hidle)
  | fin kind => exact followedTo_of_silent rfl (h.stay rfl rfl nofun rfl fun _ _ => ⟨kind, hm⟩)

theorem followedTo_refl (h : s.fr.Follows s.params P new) : FollowedTo P new s s :=
  followedTo_of_silent rfl ((List.append_nil new).symm ▸ h)

theorem framerTurn_followed (hinv : s.fr.Inv s.params) (h : s.fr.Follows s.params P new)
    (ht : framerTurn s = .next s') : FollowedTo P new s s' := by
  obtain ⟨-, rfl⟩ | ⟨-, -, -, rfl⟩ | ⟨hb, hw, -, rfl⟩ | ⟨m, hb, -, hm, rfl⟩ := framerTurn_next_cases ht
  · exact followedTo_refl h
  · exact followedTo_refl h
  · exact followedTo_of_silent rfl (h.endWait hinv hb hw)
  · exact microStep_followed h hb hm

theorem runTurn_followed {t : Turn} (hinv : s.fr.Inv s.params) (h : s.fr.Follows s.params P new) (hhost : t ≠ .host)
    (hreset : t ≠ .reset) (ht : runTurn t s = .next s') : FollowedTo P new s s' := by
  cases t with
  | host => exact absurd rfl hhost
  | framer => exact framerTurn_followed hinv h ht
  | tick => cases ht; exact followedTo_of_silent rfl h.tick
  | handler => cases ht; exact followedTo_refl h
  | loader => cases ht; exact followedTo_refl h
  | reset => exact absurd rfl hreset

/-- By induction on the schedule: each turn continues the events from where FR.PC stands. -/
theorem play_followed {ts : List Turn} (hinv : s.Inv) (h : s.fr.Follows s.params P new) (hts : Undisturbed ts)
    (hplay : play ts s = .next s') :
    ∃ es, s'.busHist = s.busHist ++ es ∧ s'.fr.Follows s'.params P (new ++ es) := by
  induction ts generalizing s new with
  | nil => cases hplay; exact ⟨[], (List.append_nil _).symm, (List.append_nil new).symm ▸ h⟩
  | cons t ts ih =>
    obtain ⟨u, hu, hrest⟩ := play_cons_next hplay
    obtain ⟨⟨hhost, hhosts⟩, ⟨hreset, hresets⟩⟩ :
        (t ≠ .host ∧ .host ∉ ts) ∧ (t ≠ .reset ∧ .reset ∉ ts) := by
      simpa [Undisturbed, eq_comm] using hts
    have hcounted : s.counted.Inv := hinv.withEnv _
    obtain ⟨e, hhist, hfollows⟩ := runTurn_followed (s := s.counted) hcounted.fr h hhost hreset hu
    obtain ⟨es, hhist', hfollows'⟩ := ih (runTurn_keeps_inv hcounted hu) hfollows ⟨hhosts, hresets⟩ hrest
    refine ⟨e.toList ++ es, ?_, ?_⟩
    · rw [hhist', hhist, List.append_assoc]; rfl
    · rwa [← List.append_assoc]

end Turns

/-- Settles O21: from its start the command follows its program (`play_followed`), so its acknowledged frames are those
before FR.PC, and at FIN they are all. -/
theorem acknowledgedWritesFollowTheProgram : Obligations.AcknowledgedWritesFollowTheProgram := by
  intro s s' ts hinv hb hpc _ _ hts hplay
  obtain ⟨new, hhist, hfollows⟩ := play_followed hinv (s.fr.follows_of_start hb hpc) hts hplay
  obtain ⟨hprog, hsent, hacked, hended⟩ := hfollows
  rw [List.nil_append] at hsent hacked
  refine ⟨new, hhist, hsent, ?_, fun hidle herr => ?_⟩
  · rw [hacked]
    exact sentFrames_take_prefix _ _
  · obtain ⟨kind, hfin⟩ := hended hidle herr
    rw [hacked, ← hprog, sentFrames_take_of_fin hfin, hprog]
    rfl

end Sys2Proof.Machine
end

section
/-! PROOFS. The command word's decoder and encoder (spec/30_encoding.md R81 to R92). Everything is read off one
characterisation of the decoder: a word decodes to a command exactly if its fields are the opcode, the zeros and the
operands that the command's row of the opcode table asks for (`decode_eq_ok_iff`). -/

namespace Sys2Proof

open Laws.OpcodeBits (opcode)

/-! ### A word and its fields -/

/-- A word is the number of its fields (R81). -/
theorem word_toNat_fields (v : Word) : v.toNat =
    (fieldOP v).toNat * 2 ^ 28 + (fieldZ v).toNat * 2 ^ 24 + (fieldA v).toNat * 2 ^ 16 + (fieldD v).toNat := by
  rw [fieldOP_toNat, fieldZ_toNat, fieldA_toNat, fieldD_toNat]
  omega

/-- Words with the same fields are the same word. -/
theorem word_eq_iff_fields {v w : Word} : v = w ↔
    fieldOP v = fieldOP w ∧ fieldZ v = fieldZ w ∧ fieldA v = fieldA w ∧ fieldD v = fieldD w := by
  constructor
  · rintro rfl
    exact ⟨rfl, rfl, rfl, rfl⟩
  · rintro ⟨hop, hz, ha, hd⟩
    apply BitVec.eq_of_toNat_eq
    rw [word_toNat_fields v, word_toNat_fields w, hop, hz, ha, hd]

theorem wordAD_fields {v : Word} (hz : fieldZ v = 0) : wordAD (fieldOP v) (fieldA v) (fieldD v) = v :=
  word_eq_iff_fields.mpr ⟨by simp, by simp [hz], by simp, by simp⟩

theorem wordH_fields {v : Word} (hz : fieldZ v = 0) : wordH (fieldOP v) (fieldH v) = v := by
  have hznat : (fieldZ v).toNat = 0 := congrArg BitVec.toNat hz
  have hznat : v.toNat / 2 ^ 24 % 2 ^ 4 = 0 := by rwa [fieldZ_toNat] at hznat
  apply BitVec.eq_of_toNat_eq
  rw [wordH_toNat, fieldOP_toNat, fieldH_toNat]
  omega

/-! ### What each row of the opcode table asks of a word -/

/-- The operand fields of `v` are those of the command's format, and 0 where the format has no operand (R82, R87). -/
def OperandsFit (v : Word) : Instr → Prop
  | .wrreg addr value => fieldA v = addr ∧ fieldD v = value
  | .rdreg addr => fieldA v = addr ∧ fieldD v = 0
  | .rdres ch => fieldA v = ch ∧ fieldD v = 0
  | .rdid => fieldA v = 0 ∧ fieldD v = 0
  | .devrst => fieldA v = 0 ∧ fieldD v = 0
  | .init => fieldA v = 0 ∧ fieldD v = 0
  | .setduty pct => fieldA v = 0 ∧ (fieldD v).toInt = pct
  | .sethz hz => fieldH v = hz

/-- `v` is a word of the command's row with the command's operands (R87, R90). -/
def FitsRow (v : Word) (i : Instr) : Prop := fieldOP v = opcode i ∧ fieldZ v = 0 ∧ OperandsFit v i

theorem needZeroA_eq_ok_iff {v : Word} {r : Except Illegal Instr} {i : Instr} :
    needZeroA v r = .ok i ↔ fieldA v = 0 ∧ r = .ok i := by
  unfold needZeroA
  split <;> simp_all

theorem needZeroD_eq_ok_iff {v : Word} {r : Except Illegal Instr} {i : Instr} :
    needZeroD v r = .ok i ↔ fieldD v = 0 ∧ r = .ok i := by
  unfold needZeroD
  split <;> simp_all

theorem fitsRow_of_decode {v : Word} {i : Instr} (h : decode v = .ok i) : FitsRow v i := by
  unfold decode at h
  split at h
  case isFalse => cases h
  case isTrue hz =>
    have hfits (hop : (fieldOP v).toNat = (opcode i).toNat) (hoperands : OperandsFit v i) : FitsRow v i :=
      ⟨BitVec.eq_of_toNat_eq hop, hz, hoperands⟩
    split at h
    case h_1 hop => cases h; exact hfits hop ⟨rfl, rfl⟩
    case h_2 hop =>
      obtain ⟨hd, rfl⟩ := by simpa only [needZeroD_eq_ok_iff, Except.ok.injEq] using h
      exact hfits hop ⟨rfl, hd⟩
    case h_3 hop =>
      obtain ⟨hd, rfl⟩ := by simpa only [needZeroD_eq_ok_iff, Except.ok.injEq] using h
      exact hfits hop ⟨rfl, hd⟩
    case h_4 hop =>
      obtain ⟨ha, hd, rfl⟩ := by simpa only [needZeroA_eq_ok_iff, needZeroD_eq_ok_iff, Except.ok.injEq] using h
      exact hfits hop ⟨ha, hd⟩
    case h_5 hop =>
      obtain ⟨ha, hd, rfl⟩ := by simpa only [needZeroA_eq_ok_iff, needZeroD_eq_ok_iff, Except.ok.injEq] using h
      exact hfits hop ⟨ha, hd⟩
    case h_6 hop =>
      obtain ⟨ha, hd, rfl⟩ := by simpa only [needZeroA_eq_ok_iff, needZeroD_eq_ok_iff, Except.ok.injEq] using h
      exact hfits hop ⟨ha, hd⟩
    case h_7 hop =>
      obtain ⟨ha, rfl⟩ := by simpa only [needZeroA_eq_ok_iff, Except.ok.injEq] using h
      exact hfits hop ⟨ha, rfl⟩
    case h_8 hop => cases h; exact hfits hop rfl
    case h_9 => cases h

theorem decode_of_fitsRow {v : Word} {i : Instr} (h : FitsRow v i) : decode v = .ok i := by
  obtain ⟨hop, hz, hoperands⟩ := h
  rw [decode, if_pos hz, hop]
  cases i with
  | wrreg addr value => obtain ⟨rfl, rfl⟩ := hoperands; rfl
  | rdreg addr => obtain ⟨rfl, hd⟩ := hoperands; exact if_pos hd
  | rdres ch => obtain ⟨rfl, hd⟩ := hoperands; exact if_pos hd
  | rdid => obtain ⟨ha, hd⟩ := hoperands; exact needZeroA_eq_ok_iff.mpr ⟨ha, if_pos hd⟩
  | devrst => obtain ⟨ha, hd⟩ := hoperands; exact needZeroA_eq_ok_iff.mpr ⟨ha, if_pos hd⟩
  | init => obtain ⟨ha, hd⟩ := hoperands; exact needZeroA_eq_ok_iff.mpr ⟨ha, if_pos hd⟩
  | setduty pct => obtain ⟨ha, rfl⟩ := hoperands; exact if_pos ha
  | sethz hz => obtain rfl := hoperands; rfl

/-- The decoder reads exactly the rows of the opcode table (R86, R87, R90). -/
theorem decode_eq_ok_iff {v : Word} {i : Instr} : decode v = .ok i ↔ FitsRow v i :=
  ⟨fitsRow_of_decode, decode_of_fitsRow⟩

/-! ### Encoding and decoding -/

theorem Instr.wellFormed_setduty {pct : Int} :
    (Instr.setduty pct).wellFormed = true ↔ -32768 ≤ pct ∧ pct ≤ 32767 := by
  simp [Instr.wellFormed]

theorem encode_opcode (i : Instr) : fieldOP (encode i) = opcode i ∧ fieldZ (encode i) = 0 := by
  cases i with
  | wrreg addr value => exact Laws.OpcodeBits.wrreg addr value
  | rdreg addr => exact Laws.OpcodeBits.rdreg addr
  | rdres ch => exact Laws.OpcodeBits.rdres ch
  | rdid => exact Laws.OpcodeBits.rdid
  | devrst => exact Laws.OpcodeBits.devrst
  | init => exact Laws.OpcodeBits.init
  | setduty pct => exact Laws.OpcodeBits.setduty pct
  | sethz hz => exact Laws.OpcodeBits.sethz hz

/-- The operands are read back from the word; SETDUTY's percent, written modulo 2^16, because it is in range (R92). -/
theorem encode_operandsFit {i : Instr} (h : i.wellFormed = true) : OperandsFit (encode i) i := by
  cases i with
  | wrreg addr value => exact ⟨fieldA_wordAD _ _ _, fieldD_wordAD _ _ _⟩
  | rdreg addr => exact ⟨fieldA_wordAD _ _ _, fieldD_wordAD _ _ _⟩
  | rdres ch => exact ⟨fieldA_wordAD _ _ _, fieldD_wordAD _ _ _⟩
  | rdid => exact ⟨fieldA_wordAD _ _ _, fieldD_wordAD _ _ _⟩
  | devrst => exact ⟨fieldA_wordAD _ _ _, fieldD_wordAD _ _ _⟩
  | init => exact ⟨fieldA_wordAD _ _ _, fieldD_wordAD _ _ _⟩
  | setduty pct =>
    obtain ⟨hlow, hhigh⟩ := Instr.wellFormed_setduty.mp h
    have hread : (BitVec.ofInt 16 pct).toInt = pct := BitVec.toInt_ofInt_eq_self (by decide) hlow (by omega)
    exact ⟨fieldA_wordAD _ _ _, by rw [encode, fieldD_wordAD, hread]⟩
  | sethz hz => exact fieldH_wordH _ _

/-- Settles O1: the word of a command fits the command's row, which the decoder reads. -/
theorem decodeOfEncodeIsIdentity : Obligations.DecodeOfEncodeIsIdentity := by
  intro i h
  obtain ⟨hop, hz⟩ := encode_opcode i
  exact decode_of_fitsRow ⟨hop, hz, encode_operandsFit h⟩

/-- Each row leaves no bit of the word open but its operands' (R90). -/
theorem encode_of_fitsRow {v : Word} {i : Instr} (h : FitsRow v i) : encode i = v := by
  obtain ⟨hop, hz, hoperands⟩ := h
  have hwordAD : wordAD (opcode i) (fieldA v) (fieldD v) = v := by rw [← hop, wordAD_fields hz]
  cases i with
  | wrreg addr value => obtain ⟨rfl, rfl⟩ := hoperands; exact hwordAD
  | rdreg addr => obtain ⟨rfl, hd⟩ := hoperands; rwa [hd] at hwordAD
  | rdres ch => obtain ⟨rfl, hd⟩ := hoperands; rwa [hd] at hwordAD
  | rdid => obtain ⟨ha, hd⟩ := hoperands; rwa [ha, hd] at hwordAD
  | devrst => obtain ⟨ha, hd⟩ := hoperands; rwa [ha, hd] at hwordAD
  | init => obtain ⟨ha, hd⟩ := hoperands; rwa [ha, hd] at hwordAD
  | setduty pct =>
    obtain ⟨ha, rfl⟩ := hoperands
    rwa [ha, ← BitVec.ofInt_toInt (x := fieldD v)] at hwordAD
  | sethz hz24 =>
    obtain rfl := hoperands
    rw [encode, show (0x9 : BitVec 4) = fieldOP v from hop.symm, wordH_fields hz]

theorem wellFormed_of_fitsRow {v : Word} {i : Instr} (h : FitsRow v i) : i.wellFormed = true := by
  obtain ⟨-, -, hoperands⟩ := h
  cases i with
  | setduty pct =>
    obtain ⟨-, rfl⟩ := hoperands
    exact Instr.wellFormed_setduty.mpr ⟨BitVec.le_toInt _, Int.lt_add_one_iff.mp BitVec.toInt_lt⟩
  | _ => rfl

/-- Settles O2: a word that decodes fits its command's row, and the row fixes the word. -/
theorem legalWordIsTheWordOfItsCommand : Obligations.LegalWordIsTheWordOfItsCommand := fun _ _ h =>
  ⟨encode_of_fitsRow (fitsRow_of_decode h), wellFormed_of_fitsRow (fitsRow_of_decode h)⟩

/-! ### The table's masks -/

/-- A mask is compared field by field. -/
theorem and_eq_iff_fields {v m w : Word} : v &&& m = w ↔
    fieldOP v &&& fieldOP m = fieldOP w ∧ fieldZ v &&& fieldZ m = fieldZ w ∧
      fieldA v &&& fieldA m = fieldA w ∧ fieldD v &&& fieldD m = fieldD w := by
  simp only [word_eq_iff_fields, fieldOP, fieldZ, fieldA, fieldD, BitVec.extractLsb'_and]

/-- Every row's mask holds OP and Z whole (R81, R87). -/
theorem and_eq_row_iff {v m : Word} (op : BitVec 4) (hop : fieldOP m = BitVec.allOnes 4)
    (hz : fieldZ m = BitVec.allOnes 4) : v &&& m = wordAD op 0 0 ↔
      fieldOP v = op ∧ fieldZ v = 0 ∧ fieldA v &&& fieldA m = 0 ∧ fieldD v &&& fieldD m = 0 := by
  simp only [and_eq_iff_fields, hop, hz, BitVec.and_allOnes, fieldOP_wordAD, fieldZ_wordAD, fieldA_wordAD,
    fieldD_wordAD]

section Masks

variable {v : Word} (op : BitVec 4)

theorem and_maskOpZ_iff : v &&& 0xFF000000 = wordAD op 0 0 ↔ fieldOP v = op ∧ fieldZ v = 0 := by
  rw [and_eq_row_iff op (by decide) (by decide), show fieldA 0xFF000000 = 0 by decide,
    show fieldD 0xFF000000 = 0 by decide]
  simp only [BitVec.ofNat_eq_ofNat, BitVec.and_zero, and_true]

theorem and_maskOpZD_iff : v &&& 0xFF00FFFF = wordAD op 0 0 ↔ fieldOP v = op ∧ fieldZ v = 0 ∧ fieldD v = 0 := by
  rw [and_eq_row_iff op (by decide) (by decide), show fieldA 0xFF00FFFF = 0 by decide,
    show fieldD 0xFF00FFFF = BitVec.allOnes 16 by decide]
  simp only [BitVec.ofNat_eq_ofNat, BitVec.and_zero, BitVec.and_allOnes, true_and]

theorem and_maskOpZA_iff : v &&& 0xFFFF0000 = wordAD op 0 0 ↔ fieldOP v = op ∧ fieldZ v = 0 ∧ fieldA v = 0 := by
  rw [and_eq_row_iff op (by decide) (by decide), show fieldA 0xFFFF0000 = BitVec.allOnes 8 by decide,
    show fieldD 0xFFFF0000 = 0 by decide]
  simp only [BitVec.ofNat_eq_ofNat, BitVec.and_zero, BitVec.and_allOnes, and_true]

theorem eq_row_iff : v = wordAD op 0 0 ↔
    fieldOP v = op ∧ fieldZ v = 0 ∧ fieldA v = 0 ∧ fieldD v = 0 := by
  simp only [word_eq_iff_fields, fieldOP_wordAD, fieldZ_wordAD, fieldA_wordAD, fieldD_wordAD]

end Masks

/-- The eight rows, by the fields each fixes: the operand of a row is free. -/
theorem exists_fitsRow_iff {v : Word} : (∃ i, FitsRow v i) ↔
    (fieldOP v = 0x1 ∧ fieldZ v = 0) ∨
    (fieldOP v = 0x2 ∧ fieldZ v = 0 ∧ fieldD v = 0) ∨
    (fieldOP v = 0x3 ∧ fieldZ v = 0 ∧ fieldD v = 0) ∨
    (fieldOP v = 0x4 ∧ fieldZ v = 0 ∧ fieldA v = 0 ∧ fieldD v = 0) ∨
    (fieldOP v = 0x5 ∧ fieldZ v = 0 ∧ fieldA v = 0 ∧ fieldD v = 0) ∨
    (fieldOP v = 0x6 ∧ fieldZ v = 0 ∧ fieldA v = 0 ∧ fieldD v = 0) ∨
    (fieldOP v = 0x8 ∧ fieldZ v = 0 ∧ fieldA v = 0) ∨
    (fieldOP v = 0x9 ∧ fieldZ v = 0) := by
  constructor
  · rintro ⟨i, hop, hz, hoperands⟩
    cases i with
    | wrreg addr value => exact .inl ⟨hop, hz⟩
    | rdreg addr => exact .inr (.inl ⟨hop, hz, hoperands.2⟩)
    | rdres ch => exact .inr (.inr (.inl ⟨hop, hz, hoperands.2⟩))
    | rdid => exact .inr (.inr (.inr (.inl ⟨hop, hz, hoperands⟩)))
    | devrst => exact .inr (.inr (.inr (.inr (.inl ⟨hop, hz, hoperands⟩))))
    | init => exact .inr (.inr (.inr (.inr (.inr (.inl ⟨hop, hz, hoperands⟩)))))
    | setduty pct => exact .inr (.inr (.inr (.inr (.inr (.inr (.inl ⟨hop, hz, hoperands.1⟩))))))
    | sethz hz24 => exact .inr (.inr (.inr (.inr (.inr (.inr (.inr ⟨hop, hz⟩))))))
  · rintro (⟨hop, hz⟩ | ⟨hop, hz, hd⟩ | ⟨hop, hz, hd⟩ | ⟨hop, hz, hzero⟩ | ⟨hop, hz, hzero⟩ | ⟨hop, hz, hzero⟩ |
      ⟨hop, hz, ha⟩ | ⟨hop, hz⟩)
    · exact ⟨.wrreg (fieldA v) (fieldD v), hop, hz, rfl, rfl⟩
    · exact ⟨.rdreg (fieldA v), hop, hz, rfl, hd⟩
    · exact ⟨.rdres (fieldA v), hop, hz, rfl, hd⟩
    · exact ⟨.rdid, hop, hz, hzero⟩
    · exact ⟨.devrst, hop, hz, hzero⟩
    · exact ⟨.init, hop, hz, hzero⟩
    · exact ⟨.setduty (fieldD v).toInt, hop, hz, ha, rfl⟩
    · exact ⟨.sethz (fieldH v), hop, hz, rfl⟩

/-- Settles O3: under its row's mask a word fits the row's match exactly if it has the fields the row fixes. -/
theorem legalWordsAreTheTableRows : Obligations.LegalWordsAreTheTableRows := by
  intro v
  simp only [decode_eq_ok_iff]
  exact exists_fitsRow_iff.trans (((and_maskOpZ_iff 0x1).or ((and_maskOpZD_iff 0x2).or ((and_maskOpZD_iff 0x3).or
    ((eq_row_iff 0x4).or ((eq_row_iff 0x5).or ((eq_row_iff 0x6).or ((and_maskOpZA_iff 0x8).or
      (and_maskOpZ_iff 0x9)))))))).symm)

/-- Settles O4, by evaluating the decoder at the ten words. -/
theorem sampleWordsDecodeAsListed : Obligations.SampleWordsDecodeAsListed := by
  unfold Obligations.SampleWordsDecodeAsListed
  decide

end Sys2Proof
end

section
/-! PROOFS. What the CMD write of a word does (spec/30_encoding.md R80, R88, R89), the programs of RDID and DEVRST
(R95), a round of WAITIDLE (R94), and the 28-bit result as a number (R85). -/

namespace Sys2Proof.Machine

open Sys2Proof.Config

/-! ### The CMD write -/

/-- The state with the turn and the host's step taken off their lists. -/
theorem State.afterTurn_afterHostStep_of_listed {s : State} {t : Turn} {ts : List Turn} {h : HostStep}
    {hp : List HostStep} (hturns : s.env.turns = t :: ts) (hprog : s.env.hostProg = h :: hp) :
    s.afterTurn.afterHostStep =
      { s with env := { s.env with turns := ts, hostProg := hp, turnNo := s.env.turnNo + 1 } } := by
  rw [State.afterTurn_of_listed hturns]
  simp only [State.afterHostStep, State.withEnv, hprog, List.tail_cons]

/-- A step at a listed CMD write issues its word (30_encoding.md R80). -/
theorem step_of_listed_cmd {s : State} {ts : List Turn} {hp : List HostStep} {v : Word}
    (hturns : s.env.turns = .host :: ts) (hprog : s.env.hostProg = .wr 0x00 4 v :: hp) :
    step s = issueWord v { s with env := { s.env with turns := ts, hostProg := hp, turnNo := s.env.turnNo + 1 } } := by
  have hnext : s.afterTurn.nextHostStep = .wr 0x00 4 v := by
    simp only [State.nextHostStep, State.afterTurn_env_hostProg, hprog]
  rw [step, State.nextTurn_of_listed hturns, runTurn_host_wr hnext, memWrite_cmd,
    State.afterTurn_afterHostStep_of_listed hturns hprog]

/-- Settles O6: the step issues the word, and the word decodes to the command. -/
theorem stepRunsTheDecodedCommand : Obligations.StepRunsTheDecodedCommand := by
  intro s ts hp v i hturns hprog hdecode
  rw [step_of_listed_cmd hturns hprog, issueWord_of_decode_ok hdecode]

/-- Settles O7: the step issues the word, and the word decodes to no command. -/
theorem illegalWordOnlySetsIll : Obligations.IllegalWordOnlySetsIll := by
  intro s ts hp v e hturns hprog hdecode
  rw [step_of_listed_cmd hturns hprog, issueWord_of_decode_error hdecode]
  rfl

theorem issueFramer_of_busy {s : State} (hb : s.fr.busy = true) (opc : BitVec 4) (a : Byte) (d : Half) :
    issueFramer opc a d s = s.withFr s.fr.overrun := by
  rw [issueFramer, if_pos hb]

/-- Settles O8: whatever framer command is issued, a busy framer takes the overrun branch. -/
theorem busyFramerDropsFramerCommands : Obligations.BusyFramerDropsFramerCommands := by
  intro s i hb hi
  obtain ⟨opc, a, d, hexec⟩ := exec_framerCommand hi
  rw [hexec, issueFramer_of_busy hb]
  rfl

/-- Settles O11: the two expansions' programs are the same lists, and an operand a command lacks is read by none of the
other arms of `prog`. -/
theorem rdidAndDevrstAreExpansions : Obligations.RdidAndDevrstAreExpansions := fun _ _ _ _ _ =>
  ⟨rfl, rfl, rfl, rfl, rfl⟩

/-! ### WAITIDLE -/

/-- A host turn at WAITIDLE is a round of its loop. -/
theorem runTurn_host_waitIdle {s : State} {hp : List HostStep} (h : s.env.hostProg = .waitIdle :: hp) :
    runTurn .host s = .next (waitIdleStep s.afterHostStep) := by
  have hnext : s.nextHostStep = .waitIdle := by simp only [State.nextHostStep, h]
  simp only [runTurn, hostTurn, hnext, runHostStep]

/-- The step that was taken off the program, put back in front of it. -/
theorem State.repeatHostStep_afterHostStep {s : State} {h : HostStep} {hp : List HostStep}
    (hprog : s.env.hostProg = h :: hp) : s.afterHostStep.repeatHostStep h = s := by
  obtain ⟨p, f, g, hist, reads, ⟨prog, turns, oracle, n⟩⟩ := s
  obtain rfl : prog = h :: hp := hprog
  rfl

/-- Settles O54: one round reads FR_STATUS, whose bit 0 is BUSY, and puts the WAITIDLE back while it is 1. -/
theorem waitIdleLoopsWhileBusy : Obligations.WaitIdleLoopsWhileBusy := by
  intro s hp h
  refine ⟨s.fr.statusWord, rfl, fun hb => ?busy, fun hb => ?idle⟩
  case busy =>
    have hback : ((s.afterHostStep.logRead ⟨"s", s.fr.statusWord⟩).repeatHostStep .waitIdle) =
        (s.afterHostStep.repeatHostStep .waitIdle).logRead ⟨"s", s.fr.statusWord⟩ := rfl
    rw [runTurn_host_waitIdle h, waitIdleStep_eq, State.afterHostStep_fr, if_pos hb, hback,
      State.repeatHostStep_afterHostStep h]
    rfl
  case idle =>
    rw [runTurn_host_waitIdle h, waitIdleStep_eq, State.afterHostStep_fr, hb, if_neg Bool.false_ne_true]
    simp only [State.logRead, State.afterHostStep, State.withEnv, h, List.tail_cons]

/-! ### The 28-bit result -/

theorem zext32_toNat (v : Half) : (zext32 v).toNat = v.toNat := BitVec.toNat_setWidth_of_le (by decide)

/-- `HI_MASK` keeps the high half's low 12 bits (00_scope.md R7). -/
theorem and_hiMask_toNat (hi : Half) : (hi &&& hiMask).toNat = hi.toNat % 4096 :=
  Nat.and_two_pow_sub_one_eq_mod hi.toNat 12

/-- The masked high half, shifted, and the low half share no bit, so their union is their sum (30_encoding.md R85). -/
theorem raw28_toNat (hi lo : Half) : (raw28 hi lo).toNat = hi.toNat % 4096 * 65536 + lo.toNat := by
  have hshifted : (zext32 (hi &&& hiMask) <<< hiShift).toNat = (hi.toNat % 4096) <<< 16 := by
    rw [BitVec.toNat_shiftLeft, zext32_toNat, and_hiMask_toNat, hiShift, Nat.shiftLeft_eq]
    omega
  rw [raw28, BitVec.toNat_or, hshifted, zext32_toNat, ← Nat.shiftLeft_add_eq_or_of_lt lo.isLt, Nat.shiftLeft_eq]

/-- Settles O55: the value is `raw28_toNat`'s sum, whose terms are below 2^28 and 2^16. -/
theorem rawResultIsTwentyEightBits : Obligations.RawResultIsTwentyEightBits := fun hi lo =>
  ⟨raw28_toNat hi lo, Nat.le_sub_one_of_lt (raw28_lt hi lo)⟩

end Sys2Proof.Machine
end

section
/-! PROOFS. The command line (spec/30_encoding.md R96): which lines issue a command, and what they issue. -/

namespace Sys2Proof.Machine

open Sys2Proof.Config

/-! ### The forms of a line -/

/-- `f` or `F` begins a frequency. -/
theorem parseLine_of_f {c : Char} (hc : c = 'f' ∨ c = 'F') (rest : List Char) :
    parseLine (c :: rest) = parseHz rest := by
  have hstatus : ¬((c = 'h' ∨ c = 'H' ∨ c = '?') ∧ rest = []) := by
    rintro ⟨hletter, -⟩
    obtain rfl | rfl := hc
    · exact absurd hletter (by decide)
    · exact absurd hletter (by decide)
  rw [parseLine, if_neg hstatus, if_pos hc]

/-- A digit begins a duty percent: no letter of another form is a digit. -/
theorem parseLine_of_digit {c : Char} (hc : (digitValue c).isSome = true) (rest : List Char) :
    parseLine (c :: rest) = parseDuty (c :: rest) := by
  have hne {x : Char} (hx : (digitValue x).isSome = false) : c ≠ x := by
    rintro rfl
    simp [hx] at hc
  have hstatus : ¬((c = 'h' ∨ c = 'H' ∨ c = '?') ∧ rest = []) := by
    rintro ⟨hh | hh | hh, -⟩
    · exact hne (by decide) hh
    · exact hne (by decide) hh
    · exact hne (by decide) hh
  have hf : ¬(c = 'f' ∨ c = 'F') := not_or.mpr ⟨hne (by decide), hne (by decide)⟩
  rw [parseLine, if_neg hstatus, if_neg hf, if_pos hc]

theorem parseLine_toDigits (n : Nat) : parseLine (Nat.toDigits 10 n) = parseDuty (Nat.toDigits 10 n) := by
  have hdigits := readDigits_some_chars _ 0 n (readDigits_toDigits n)
  cases htext : Nat.toDigits 10 n with
  | nil => exact absurd htext Nat.toDigits_ne_nil
  | cons c rest => exact parseLine_of_digit (hdigits c (by simp [htext])) rest

/-- Settles O57: the digits of `n` read back as `n`, on which both forms decide. -/
theorem commandLineNumbersIssueTheirCommand : Obligations.CommandLineNumbersIssueTheirCommand := by
  intro n c hc
  refine ⟨?duty, ?hz⟩
  case duty => simp only [parseLine_toDigits, parseDuty, decimal_toDigits]
  case hz => simp only [parseLine_of_f hc, parseHz, decimal_toDigits, Nat.lt_iff_add_one_le, Nat.zero_add]

/-! ### The lines that issue a command -/

theorem parseHz_eq_command {cs : List Char} {i : Instr} (h : parseHz cs = .command i) :
    ∃ n, decimal cs = some n ∧ 0 < n ∧ n ≤ 16777215 ∧ i = .sethz (BitVec.ofNat 24 n) := by
  unfold parseHz at h
  split at h
  · split at h
    · cases h
      obtain ⟨hpos, hmax⟩ := ‹_ ∧ _›
      exact ⟨_, ‹_›, hpos, hmax, rfl⟩
    · cases h
  · cases h

theorem parseDuty_eq_command {cs : List Char} {i : Instr} (h : parseDuty cs = .command i) :
    ∃ n : Nat, decimal cs = some n ∧ n ≤ 100 ∧ i = .setduty n := by
  unfold parseDuty at h
  split at h
  · split at h
    · cases h
      exact ⟨_, ‹_›, ‹_›, rfl⟩
    · cases h
  · cases h

/-- A line that issues a command is a duty percent, or `f` or `F` and a frequency. -/
theorem parseLine_command_cases {line : List Char} {i : Instr} (h : parseLine line = .command i) :
    (∃ n : Nat, decimal line = some n ∧ n ≤ 100 ∧ i = .setduty n) ∨
    (∃ c rest n, line = c :: rest ∧ (c = 'f' ∨ c = 'F') ∧ decimal rest = some n ∧ 0 < n ∧ n ≤ 16777215 ∧
      i = .sethz (BitVec.ofNat 24 n)) := by
  unfold parseLine at h
  split at h
  · cases h
  · split at h
    · cases h
    · split at h
      · obtain ⟨n, hn⟩ := parseHz_eq_command h
        exact .inr ⟨_, _, n, rfl, ‹_›, hn⟩
      · split at h
        · exact .inl (parseDuty_eq_command h)
        · cases h

theorem decimal_some_chars {cs : List Char} {n : Nat} (h : decimal cs = some n) :
    ∀ c ∈ cs, (digitValue c).isSome = true := by
  cases cs with
  | nil => cases h
  | cons c cs => exact readDigits_some_chars _ 0 n h

/-- A line that issues a command holds only digits and the letter of its form. -/
theorem parseLine_command_chars {line : List Char} {i : Instr} (h : parseLine line = .command i) {x : Char}
    (hx : x ∈ line) : (digitValue x).isSome = true ∨ x = 'f' ∨ x = 'F' := by
  obtain ⟨n, hn, -⟩ | ⟨c, rest, n, rfl, hc, hn, -⟩ := parseLine_command_cases h
  · exact .inl (decimal_some_chars hn x hx)
  · obtain rfl | hx := List.mem_cons.mp hx
    · exact .inr hc
    · exact .inl (decimal_some_chars hn x hx)

/-- A command with its operands in range is issued as one CMD write of its word (30_encoding.md R92, R93). -/
theorem lineSteps_command {i : Instr} (h : i.wellFormed = true) : lineSteps (.command i) = [.wr 0x00 4 (encode i)] := by
  simp only [lineSteps, hostCMD, assemble, h, if_true, Option.map_some, Option.toList_some, hostWR]

/-- Settles O58, from the two forms of a line that issues a command and the characters they hold. -/
theorem commandLineIssuesOnlySetters : Obligations.CommandLineIssuesOnlySetters := by
  intro line i h
  have habsent {x : Char} (hx : ¬((digitValue x).isSome = true ∨ x = 'f' ∨ x = 'F')) : x ∉ line :=
    fun hmem => hx (parseLine_command_chars h hmem)
  have hchars : ' ' ∉ line ∧ '-' ∉ line ∧ '+' ∉ line :=
    ⟨habsent (by decide), habsent (by decide), habsent (by decide)⟩
  obtain ⟨n, -, hmax, rfl⟩ | ⟨-, -, n, -, -, -, hpos, hmax, rfl⟩ := parseLine_command_cases h
  · have hrange : (Instr.setduty n).wellFormed = true := Instr.wellFormed_setduty.mpr (by omega)
    exact ⟨.inl ⟨n, hmax, rfl⟩, lineSteps_command hrange, hchars⟩
  · have hne : BitVec.ofNat 24 n ≠ 0 := by
      intro hzero
      have hnat : n % 2 ^ 24 = 0 := congrArg BitVec.toNat hzero
      omega
    exact ⟨.inr ⟨_, hne, rfl⟩, lineSteps_command rfl, hchars⟩

end Sys2Proof.Machine
end

section
/-! PROOFS. The assembler's text of a command (spec/30_encoding.md R92): a line is its mnemonic and its operands
(`asmLine_of_operand`, `asmLine_of_operands`), an operand's text reads as its number, and the word is the number R92's
table gives. -/

namespace Sys2Proof.Machine

open Sys2Proof.Config

/-! ### A line's mnemonic and operands -/

/-- The text of one operand as the assembler leaves it: not empty, and no space or comma in it. -/
structure OperandText (x : List Char) : Prop where
  nonempty : x ≠ []
  noSpace : ' ' ∉ x
  noComma : ',' ∉ x

theorem trimSpaces_ne_nil {cs : List Char} {c : Char} (hc : c ∈ cs) (hne : c ≠ ' ') : trimSpaces cs ≠ [] := by
  intro htrim
  have hblank : ∀ x ∈ cs.dropWhile (· = ' '), x = ' ' := by
    simpa [trimSpaces, List.dropWhile_eq_nil_iff] using htrim
  have hfirst : cs.dropWhile (· = ' ') = [] := by
    by_contra hdrop
    have hhead := List.head_dropWhile_not (· = ' ') hdrop
    simp [hblank _ (List.head_mem hdrop)] at hhead
  exact hne (by simpa using List.dropWhile_eq_nil_iff.mp hfirst c hc)

section Operands

variable {x y : List Char}

theorem asmOperands_one (hx : OperandText x) : asmOperands (' ' :: x) = [x] := by
  have htrim : trimSpaces (' ' :: x) = x := by rw [trimSpaces_space_cons, trimSpaces_no_space hx.noSpace]
  have hcomma : ',' ∉ ' ' :: x := by simp [hx.noComma]
  rw [asmOperands, htrim, if_neg hx.nonempty, operandsAfter_no_comma hcomma, List.reverse_nil, List.nil_append, htrim]

theorem asmOperands_two (hx : OperandText x) (hy : OperandText y) :
    asmOperands (' ' :: (x ++ [',', ' '] ++ y)) = [x, y] := by
  have hblank : trimSpaces (' ' :: (x ++ [',', ' '] ++ y)) ≠ [] := trimSpaces_ne_nil (c := ',') (by simp) (by decide)
  have hsplit : ' ' :: (x ++ [',', ' '] ++ y) = (' ' :: x) ++ ',' :: (' ' :: y) := by simp
  have hcommaX : ',' ∉ ' ' :: x := by simp [hx.noComma]
  have hcommaY : ',' ∉ ' ' :: y := by simp [hy.noComma]
  rw [asmOperands, if_neg hblank, hsplit, operandsAfter_comma hcommaX, operandsAfter_no_comma hcommaY]
  simp only [List.reverse_nil, List.nil_append, trimSpaces_space_cons, trimSpaces_no_space hx.noSpace,
    trimSpaces_no_space hy.noSpace]

variable {m : List Char}

/-- The mnemonic ends at the first space. -/
theorem asmLine_of_mnemonic (hm : ' ' ∉ m) (rest : List Char) :
    asmLine (m ++ ' ' :: rest) = asmInstr m (asmOperands (' ' :: rest)) := by
  have hword : ∀ c ∈ m, decide (c ≠ ' ') = true := fun c hc => decide_eq_true fun e => hm (e ▸ hc)
  rw [asmLine, List.takeWhile_append_of_pos hword, List.dropWhile_append_of_pos hword]
  simp

theorem asmLine_of_operand (hm : ' ' ∉ m) (hx : OperandText x) : asmLine (m ++ ' ' :: x) = asmInstr m [x] := by
  rw [asmLine_of_mnemonic hm, asmOperands_one hx]

theorem asmLine_of_operands (hm : ' ' ∉ m) (hx : OperandText x) (hy : OperandText y) :
    asmLine (m ++ ' ' :: (x ++ [',', ' '] ++ y)) = asmInstr m [x, y] := by
  rw [asmLine_of_mnemonic hm, asmOperands_two hx hy]

end Operands

/-! ### Operands as numbers -/

section Numbers

variable {n : Nat} {cs : List Char}

theorem not_mem_of_numberTexts (h : cs ∈ numberTexts n) {c : Char} (hc : isNumberChar c = false) : c ∉ cs := by
  intro hmem
  have hnumber := (numberTexts_chars h).2 c hmem
  simp [hc] at hnumber

theorem operandText_of_numberTexts (h : cs ∈ numberTexts n) : OperandText cs where
  nonempty := (numberTexts_chars h).1
  noSpace := not_mem_of_numberTexts h (by decide)
  noComma := not_mem_of_numberTexts h (by decide)

theorem OperandText.neg (h : OperandText cs) : OperandText ('-' :: cs) where
  nonempty := List.cons_ne_nil _ _
  noSpace := by simp [h.noSpace]
  noComma := by simp [h.noComma]

theorem asmField_numberTexts (h : cs ∈ numberTexts n) (w : Nat) :
    asmField w cs = if n < 2 ^ w then some (BitVec.ofNat w n) else none := by
  simp only [asmField, asmNumber_numberTexts h]

theorem asmSigned_numberTexts (h : cs ∈ numberTexts n) : asmSigned cs = some (n : Int) := by
  have hsign : cs.take 1 ≠ ['-'] := fun e =>
    not_mem_of_numberTexts h (c := '-') (by decide) (List.mem_of_mem_take (i := 1) (by rw [e]; simp))
  rw [asmSigned, if_neg hsign, asmNumber_numberTexts h]
  rfl

theorem asmSigned_neg_numberTexts (h : cs ∈ numberTexts n) : asmSigned ('-' :: cs) = some (-(n : Int)) := by
  simp [asmSigned, asmNumber_numberTexts h]

end Numbers

/-! ### The words -/

theorem wordAD_ofNat (op : BitVec 4) {n m : Nat} (hn : n ≤ 255) (hm : m ≤ 65535) :
    wordAD op (BitVec.ofNat 8 n) (BitVec.ofNat 16 m) = BitVec.ofNat 32 (op.toNat * 2 ^ 28 + 65536 * n + m) := by
  have := op.isLt
  apply BitVec.eq_of_toNat_eq
  simp only [wordAD_toNat, BitVec.toNat_ofNat]
  omega

theorem wordH_ofNat (op : BitVec 4) {n : Nat} (hn : n ≤ 16777215) :
    wordH op (BitVec.ofNat 24 n) = BitVec.ofNat 32 (op.toNat * 2 ^ 28 + n) := by
  have := op.isLt
  apply BitVec.eq_of_toNat_eq
  simp only [wordH_toNat, BitVec.toNat_ofNat]
  omega

/-- A percent is written modulo 2^16. -/
theorem ofInt_neg_natCast {n : Nat} (hn : n ≤ 32768) :
    BitVec.ofInt 16 (-(n : Int)) = BitVec.ofNat 16 ((65536 - n) % 65536) := by
  apply BitVec.eq_of_toNat_eq
  rw [BitVec.toNat_ofInt, BitVec.toNat_ofNat]
  omega

/-! ### The commands' lines -/

/-- A command of one unsigned operand: the word of its field where the number fits it. -/
theorem assembleLine_of_field {w : Nat} {f : BitVec w → Instr} {m tn : List Char} {n : Nat} (hm : ' ' ∉ m)
    (hinstr : ∀ ops, asmInstr m ops = asmOne (fun x => (asmField w x).map f) ops)
    (hwf : ∀ b, (f b).wellFormed = true) (hn : tn ∈ numberTexts n) :
    assembleLine (m ++ ' ' :: tn) = if n < 2 ^ w then some (encode (f (BitVec.ofNat w n))) else none := by
  rw [assembleLine, asmLine_of_operand hm (operandText_of_numberTexts hn), hinstr, asmOne, asmField_numberTexts hn]
  split
  · simp only [Option.map_some, Option.bind_some, assemble, hwf, if_true]
  · rfl

/-- A command of format A (R81): its byte stands at bit 16 of the word. -/
theorem assembleLine_of_byte {f : Byte → Instr} {op : BitVec 4} {m tn : List Char} {n : Nat} (hm : ' ' ∉ m)
    (hinstr : ∀ ops, asmInstr m ops = asmOne (fun x => (asmField 8 x).map f) ops)
    (hwf : ∀ b, (f b).wellFormed = true) (hword : ∀ b, encode (f b) = wordAD op b 0#16) (hn : tn ∈ numberTexts n) :
    assembleLine (m ++ ' ' :: tn) =
      if n ≤ 255 then some (BitVec.ofNat 32 (op.toNat * 2 ^ 28 + 65536 * n)) else none := by
  have hbyte (hle : n ≤ 255) : wordAD op (BitVec.ofNat 8 n) 0#16 = BitVec.ofNat 32 (op.toNat * 2 ^ 28 + 65536 * n) := by
    rw [← Nat.add_zero (_ + _), ← wordAD_ofNat op hle (Nat.zero_le _)]
  rw [assembleLine_of_field hm hinstr hwf hn, hword]
  exact ite_congr (propext Nat.lt_succ_iff) (fun hle => congrArg some (hbyte hle)) fun _ => rfl

section Lines

variable {n m : Nat} {tn tm : List Char}

theorem assembleLine_wrreg (hn : tn ∈ numberTexts n) (hm : tm ∈ numberTexts m) :
    assembleLine (['W', 'R', 'R', 'E', 'G', ' '] ++ tn ++ [',', ' '] ++ tm) =
      if n ≤ 255 ∧ m ≤ 65535 then some (BitVec.ofNat 32 (0x10000000 + 65536 * n + m)) else none := by
  have hline : asmLine (['W', 'R', 'R', 'E', 'G', ' '] ++ tn ++ [',', ' '] ++ tm) = asmWrreg [tn, tm] :=
    asmLine_of_operands (m := ['W', 'R', 'R', 'E', 'G']) (by decide) (operandText_of_numberTexts hn)
      (operandText_of_numberTexts hm)
  rw [assembleLine, hline, asmWrreg, asmField_numberTexts hn, asmField_numberTexts hm]
  by_cases hrange : n ≤ 255 ∧ m ≤ 65535
  · rw [if_pos hrange, if_pos (by omega), if_pos (by omega)]
    exact congrArg some (wordAD_ofNat 1 hrange.1 hrange.2)
  · rw [if_neg hrange]
    by_cases hn : n < 2 ^ 8
    · rw [if_pos hn, if_neg (by omega)]
      rfl
    · rw [if_neg hn]
      rfl

theorem assembleLine_rdreg (hn : tn ∈ numberTexts n) : assembleLine (['R', 'D', 'R', 'E', 'G', ' '] ++ tn) =
    if n ≤ 255 then some (BitVec.ofNat 32 (0x20000000 + 65536 * n)) else none :=
  assembleLine_of_byte (m := ['R', 'D', 'R', 'E', 'G']) (op := 2) (by decide) (fun _ => rfl) (fun _ => rfl)
    (fun _ => rfl) hn

theorem assembleLine_rdres (hn : tn ∈ numberTexts n) : assembleLine (['R', 'D', 'R', 'E', 'S', ' '] ++ tn) =
    if n ≤ 255 then some (BitVec.ofNat 32 (0x30000000 + 65536 * n)) else none :=
  assembleLine_of_byte (m := ['R', 'D', 'R', 'E', 'S']) (op := 3) (by decide) (fun _ => rfl) (fun _ => rfl)
    (fun _ => rfl) hn

theorem assembleLine_sethz (hn : tn ∈ numberTexts n) : assembleLine (['S', 'E', 'T', 'H', 'Z', ' '] ++ tn) =
    if n ≤ 16777215 then some (BitVec.ofNat 32 (0x90000000 + n)) else none :=
  (assembleLine_of_field (m := ['S', 'E', 'T', 'H', 'Z']) (by decide) (fun _ => rfl) (fun _ => rfl) hn).trans
    (ite_congr (propext Nat.lt_succ_iff) (fun hle => congrArg some (wordH_ofNat 9 hle)) fun _ => rfl)

theorem assembleLine_setduty {x : List Char} {pct : Int} (hx : OperandText x) (hpct : asmSigned x = some pct) :
    assembleLine (['S', 'E', 'T', 'D', 'U', 'T', 'Y', ' '] ++ x) = assemble (.setduty pct) := by
  have hline : asmLine (['S', 'E', 'T', 'D', 'U', 'T', 'Y', ' '] ++ x) = (asmSigned x).map .setduty :=
    asmLine_of_operand (m := ['S', 'E', 'T', 'D', 'U', 'T', 'Y']) (by decide) hx
  rw [assembleLine, hline, hpct, Option.map_some, Option.bind_some]

theorem assemble_setduty_ofNat (n : Nat) : assemble (.setduty n) =
    if n ≤ 32767 then some (BitVec.ofNat 32 (0x80000000 + n)) else none := by
  refine ite_congr (propext ?_) (fun hle => ?_) fun _ => rfl
  · rw [Instr.wellFormed_setduty]
    omega
  · rw [encode, BitVec.ofInt_natCast]
    exact congrArg some (wordAD_ofNat 8 (Nat.zero_le _) (by omega))

theorem assemble_setduty_neg (n : Nat) : assemble (.setduty (-(n : Int))) =
    if n ≤ 32768 then some (BitVec.ofNat 32 (0x80000000 + (65536 - n) % 65536)) else none := by
  refine ite_congr (propext ?_) (fun hle => ?_) fun _ => rfl
  · rw [Instr.wellFormed_setduty]
    omega
  · rw [encode, ofInt_neg_natCast hle]
    exact congrArg some (wordAD_ofNat 8 (Nat.zero_le _) (by omega))

end Lines

/-- Settles O59: one lemma per command with operands; the three without are evaluated. -/
theorem assemblerTakesOperandsInRange : Obligations.AssemblerTakesOperandsInRange := by
  refine ⟨fun n m tn tm hn hm => ⟨assembleLine_wrreg hn hm, assembleLine_rdreg hn, assembleLine_rdres hn, ?duty, ?neg,
    assembleLine_sethz hn⟩, by decide, by decide, by decide⟩
  case duty =>
    rw [assembleLine_setduty (operandText_of_numberTexts hn) (asmSigned_numberTexts hn), assemble_setduty_ofNat]
  case neg =>
    have hline := assembleLine_setduty (operandText_of_numberTexts hn).neg (asmSigned_neg_numberTexts hn)
    exact hline.trans (assemble_setduty_neg n)

end Sys2Proof.Machine
end

section
/-! PROOFS. The programs of spec/40_bus_transport.md R101, and the single turns of a busy framer: an attempt and its
answer (R102 to R104, R106), the end of a wait (R105), FIN (R107). -/

namespace Sys2Proof.Machine

open Sys2Proof.Config

/-! ### The programs -/

/-- A channel's address, added up in bytes, is the byte of the sum of the numbers (10_state.md R41). -/
theorem resultHighAddr_eq (p : Params) (ch : Byte) :
    resultHighAddr p ch = BitVec.ofNat 8 (p.resultBase.toNat + 2 * ch.toNat) := by
  rw [resultHighAddr, BitVec.ofNat_add, BitVec.ofNat_mul, BitVec.ofNat_toNat, BitVec.ofNat_toNat, BitVec.setWidth_eq,
    BitVec.setWidth_eq]
  rfl

theorem resultLowAddr_eq (p : Params) (ch : Byte) :
    resultLowAddr p ch = BitVec.ofNat 8 (p.resultBase.toNat + 2 * ch.toNat + 1) := by
  rw [BitVec.ofNat_add, ← resultHighAddr_eq]
  rfl

theorem prog_rdres {ch : Byte} (hch : ch.toNat ≤ 3) (p : Params) (d : Half) :
    prog p opRDRES ch d = rdresProg p ch :=
  if_pos (decide_eq_true (Nat.lt_succ_of_le hch))

/-- Settles O10: each arm of `prog` is the list R101 gives; RDRES's addresses are written as sums of numbers. -/
theorem programsAreTheListedMicroOperations : Obligations.ProgramsAreTheListedMicroOperations := by
  intro p a d
  refine ⟨rfl, rfl, fun hch => ?rdres, rfl, rfl, rfl⟩
  case rdres =>
    rw [← resultHighAddr_eq, ← resultLowAddr_eq]
    exact prog_rdres hch p d

/-! ### The turn of a busy framer -/

section Turn

variable {s : State}

theorem framerTurn_of_current {m : MicroOp} (hb : s.fr.busy = true) (hw : s.fr.wkind = .none)
    (hm : s.fr.current s.params = some m) : framerTurn s = .next (microStep m s) := by
  rw [framerTurn, if_neg (by simp [hb]), if_neg (not_not_intro hw), hm]

theorem framerTurn_of_wait (hb : s.fr.busy = true) (hw : s.fr.wkind ≠ .none) :
    framerTurn s = .next (waitStep s) := by
  rw [framerTurn, if_neg (by simp [hb]), if_pos hw]

theorem waitStep_of_due (h : s.fr.wneed ≤ s.fr.wcnt) : waitStep s = s.withFr s.fr.endWait := if_pos h

theorem waitStep_of_not_due (h : s.fr.wcnt < s.fr.wneed) : waitStep s = s := if_neg (Nat.not_le_of_lt h)

end Turn

/-- Settles O14: a wait's turn is `waitStep`, whose effect the wait's kind selects. -/
theorem waitEndsOnceItsTicksHavePassed : Obligations.WaitEndsOnceItsTicksHavePassed := by
  intro s hb
  refine ⟨fun hk hdue => ?backoff, fun hk hdue => ?settle, fun hw hlt => ?notDue⟩
  case backoff =>
    rw [framerTurn_of_wait hb (by simp [hk]), waitStep_of_due hdue, Framer.endWait, hk]
    rfl
  case settle =>
    rw [framerTurn_of_wait hb (by simp [hk]), waitStep_of_due hdue, Framer.endWait, hk]
    rfl
  case notDue => rw [framerTurn_of_wait hb hw, waitStep_of_not_due hlt]

/-- Settles O15: the turn is FIN's step, whose RESULT is V0 widened or the 28-bit result of both latches. -/
theorem finEndsTheCommand : Obligations.FinEndsTheCommand := by
  intro s kind hb hw hm
  refine ⟨s.fr.finResult kind, framerTurn_of_current hb hw hm, ?_⟩
  cases kind with
  | none => rfl
  | v16 => exact zext32_toNat s.fr.v0
  | raw => exact raw28_toNat s.fr.v0 s.fr.v1

/-! ### Attempts -/

/-- BACKOFF_TICKS, its ceiling written out (00_scope.md R8). -/
theorem backoffTicks_eq (p : Params) : backoffTicks p = (5 * p.tickHz + 999) / 1000 := by
  rw [backoffTicks, msTicks, ceilDiv, Nat.add_sub_assoc (by decide), backoffMs]

theorem Framer.failedAttempt_of_lt {p : Params} {f : Framer} (h : f.attempt < p.maxRetries) : f.failedAttempt p =
    { f with wkind := .backoff, wneed := (5 * p.tickHz + 999) / 1000, wcnt := 0 } := by
  rw [Framer.failedAttempt, if_pos h, ← backoffTicks_eq]
  rfl

theorem Framer.failedAttempt_of_eq {p : Params} {f : Framer} (h : f.attempt = p.maxRetries) : f.failedAttempt p =
    { f with err := .busError, busy := false, attempt := 1, wkind := .none } := by
  rw [Framer.failedAttempt, if_neg (Nat.not_lt_of_le h.ge)]
  rfl

section Attempts

variable {s : State}

theorem txStep_of_ok {b0 b1 : Byte} (ha : s.nextAnswer = .ok b0 b1) (bytes : List Byte) :
    txStep bytes s = (s.afterAnswer.logBus (.bw bytes true)).withFr s.fr.advance := by
  rw [txStep, State.busWrite, ha]
  rfl

theorem txStep_of_fail (ha : s.nextAnswer = .fail) (bytes : List Byte) :
    txStep bytes s = (s.afterAnswer.logBus (.bw bytes false)).withFr (s.fr.failedAttempt s.params) := by
  rw [txStep, State.busWrite, ha]
  rfl

theorem rxStep_of_ok {b0 b1 : Byte} (ha : s.nextAnswer = .ok b0 b1) (k : Latch) : rxStep k s =
    (s.afterAnswer.logBus (.br 2 (some [b0, b1]))).withFr (s.fr.latch k (be16 b0 b1)).advance := by
  rw [rxStep, State.busRead, ha]
  rfl

theorem rxStep_of_fail (ha : s.nextAnswer = .fail) (k : Latch) :
    rxStep k s = (s.afterAnswer.logBus (.br 2 none)).withFr (s.fr.failedAttempt s.params) := by
  rw [rxStep, State.busRead, ha]
  rfl

end Attempts

/-- Settles O12: the turn is the attempt's step, whose answer selects the next micro-operation, a backoff or the end. -/
theorem transmitAttemptFollowsItsAnswer : Obligations.TransmitAttemptFollowsItsAnswer := by
  intro s bytes hb hw hm
  have hturn : framerTurn s = .next (txStep bytes s) := framerTurn_of_current hb hw hm
  refine ⟨fun b0 b1 ha => ?ok, fun ha hlt => ?retry, fun ha hlast => ?final⟩
  case ok =>
    rw [hturn, txStep_of_ok ha]
    rfl
  case retry =>
    rw [hturn, txStep_of_fail ha, Framer.failedAttempt_of_lt hlt]
    rfl
  case final =>
    rw [hturn, txStep_of_fail ha, Framer.failedAttempt_of_eq hlast]
    rfl

/-- The first byte received is the high one (20_memory.md R62). -/
theorem be16_toNat (b0 b1 : Byte) : (be16 b0 b1).toNat = b0.toNat * 256 + b1.toNat := toNat_append_eq b0 b1

/-- Settles O13: the turn is the attempt's step; an `Ok` latches `be16` of the two bytes. -/
theorem receiveAttemptFollowsItsAnswer : Obligations.ReceiveAttemptFollowsItsAnswer := by
  intro s k hb hw hm
  have hturn : framerTurn s = .next (rxStep k s) := framerTurn_of_current hb hw hm
  refine ⟨fun b0 b1 ha => ⟨_, hturn, ?latch, ?ok⟩, fun ha hlt => ?retry, fun ha hlast => ?final⟩
  case latch =>
    rw [rxStep_of_ok ha]
    cases k with
    | v0 => exact ⟨be16_toNat b0 b1, rfl⟩
    | v1 => exact ⟨be16_toNat b0 b1, rfl⟩
  case ok =>
    rw [rxStep_of_ok ha]
    cases k with
    | v0 => rfl
    | v1 => rfl
  case retry =>
    rw [hturn, rxStep_of_fail ha, Framer.failedAttempt_of_lt hlt]
    rfl
  case final =>
    rw [hturn, rxStep_of_fail ha, Framer.failedAttempt_of_eq hlast]
    rfl

end Sys2Proof.Machine
end

section
/-! PROOFS. Schedules without a host turn or RESET: an idle framer is silent under them (spec/40_bus_transport.md R110,
20_memory.md R72), a busy one goes through its command move by move, and what its moves keep the schedule keeps. -/

namespace Sys2Proof.Machine

open Sys2Proof.Config

/-! ### The framer's part of a tick -/

theorem Framer.tick_of_no_wait {f : Framer} (hw : f.wkind = .none) : f.tick = f := if_pos hw

theorem Framer.tick_of_wait {f : Framer} (hw : f.wkind ≠ .none) :
    f.tick = { f with wcnt := min (f.wcnt + 1) f.wneed } := if_neg hw

/-- A tick changes at most FR.WCNT (46_actuation_engine.md R170). -/
theorem Framer.tick_eq (f : Framer) : ∃ n, f.tick = { f with wcnt := n } := by
  by_cases hw : f.wkind = .none
  · exact ⟨f.wcnt, Framer.tick_of_no_wait hw⟩
  · exact ⟨_, Framer.tick_of_wait hw⟩

/-! ### Undisturbed schedules -/

/-- What every turn but the host's and RESET's keeps, an undisturbed schedule keeps. -/
theorem play_undisturbed_keeps {I : State → Prop} (hcounted : ∀ u, I u → I u.counted)
    (hturn : ∀ t u u', t ≠ .host → t ≠ .reset → I u → runTurn t u = .next u' → I u')
    {ts : List Turn} {s s' : State} (h : I s) (hts : Undisturbed ts) (hplay : play ts s = .next s') : I s' := by
  induction ts generalizing s with
  | nil => cases hplay; exact h
  | cons t ts ih =>
    obtain ⟨u, hu, hrest⟩ := play_cons_next hplay
    obtain ⟨⟨hhost, hhosts⟩, ⟨hreset, hresets⟩⟩ :
        (t ≠ .host ∧ .host ∉ ts) ∧ (t ≠ .reset ∧ .reset ∉ ts) := by
      simpa [Undisturbed, eq_comm] using hts
    exact ih (hturn t _ u hhost hreset (hcounted s h) hu) ⟨hhosts, hresets⟩ hrest

/-! ### An idle framer -/

/-- `u` has an idle framer that has done nothing since `s`, and the host has read nothing since. -/
structure SilentSince (s u : State) : Prop where
  busy : u.fr.busy = false
  wkind : u.fr.wkind = .none
  fr : u.fr = s.fr
  busHist : u.busHist = s.busHist
  hostReads : u.hostReads = s.hostReads

theorem framerTurn_of_idle {s : State} (hb : s.fr.busy = false) : framerTurn s = .next s := if_pos hb

theorem SilentSince.runTurn {s u u' : State} {t : Turn} (h : SilentSince s u) (hhost : t ≠ .host) (hreset : t ≠ .reset)
    (ht : runTurn t u = .next u') : SilentSince s u' := by
  cases t with
  | host => exact absurd rfl hhost
  | framer => cases (framerTurn_of_idle h.busy).symm.trans ht; exact h
  | tick =>
    cases ht
    have hfr : (tickStep u).fr = u.fr := Framer.tick_of_no_wait h.wkind
    exact ⟨hfr ▸ h.busy, hfr ▸ h.wkind, hfr.trans h.fr, h.busHist, h.hostReads⟩
  | handler => cases ht; exact ⟨h.busy, h.wkind, h.fr, h.busHist, h.hostReads⟩
  | loader => cases ht; exact ⟨h.busy, h.wkind, h.fr, h.busHist, h.hostReads⟩
  | reset => exact absurd rfl hreset

/-- Settles O24: silence is kept by every turn of the schedule (`SilentSince.runTurn`). -/
theorem idleFramerIsSilent : Obligations.IdleFramerIsSilent := by
  intro s s' ts hb hw hts hplay
  have hsilent : SilentSince s s' :=
    play_undisturbed_keeps (fun _ h => ⟨h.busy, h.wkind, h.fr, h.busHist, h.hostReads⟩)
      (fun _ _ _ hhost hreset h ht => h.runTurn hhost hreset ht) ⟨hb, hw, rfl, rfl, rfl⟩ hts hplay
  exact ⟨hsilent.fr, hsilent.busHist, hsilent.hostReads⟩

/-! ### The moves of a running command -/

/-- One move of a busy framer under parameters `p`, with the event of its bus attempt if it makes one
(40_bus_transport.md R102 to R108, 41_register_protocol.md R131). -/
inductive Framer.Moves (p : Params) (f : Framer) : Option BusEvent → Framer → Prop
  | backoffEnd (hw : f.wkind = .backoff) :
      f.Moves p none { f with attempt := f.attempt + 1, wkind := .none, wcnt := 0, wneed := 0 }
  | settleEnd (hw : f.wkind = .settle) : f.Moves p none { f with pc := f.pc + 1, wkind := .none, wcnt := 0, wneed := 0 }
  | success {m : MicroOp} {e : BusEvent} (v0 v1 : Half) (hw : f.wkind = .none) (hm : f.current p = some m)
      (he : isAttemptOf m e = true) (hok : succeeded e = true) :
      f.Moves p (some e) { f with v0 := v0, v1 := v1, pc := f.pc + 1, attempt := 1 }
  | failure {m : MicroOp} {e : BusEvent} (hw : f.wkind = .none) (hm : f.current p = some m)
      (he : isAttemptOf m e = true) (hfail : succeeded e = false) : f.Moves p (some e) (f.failedAttempt p)
  | idchk (hw : f.wkind = .none) (hm : f.current p = some .idchk) : f.Moves p none (f.checkId p)
  | waitSettle (hw : f.wkind = .none) (hm : f.current p = some .waitSettle) :
      f.Moves p none (f.startWait .settle (settleTicks p))
  | fin {kind : FinKind} (hw : f.wkind = .none) (hm : f.current p = some (.fin kind)) : f.Moves p none (f.finish kind)

/-- From `s` to `s'` the framer has made one move, and the history has its event. -/
def MovedTo (s s' : State) : Prop :=
  ∃ e : Option BusEvent, s'.busHist = s.busHist ++ e.toList ∧ s.fr.Moves s.params e s'.fr

theorem movedTo_of_silent {s s' : State} (hhist : s'.busHist = s.busHist) (h : s.fr.Moves s.params none s'.fr) :
    MovedTo s s' := ⟨none, hhist.trans (List.append_nil _).symm, h⟩

theorem txStep_moves {s : State} {bytes : List Byte} (hw : s.fr.wkind = .none)
    (hm : s.fr.current s.params = some (.tx bytes)) : MovedTo s (txStep bytes s) := by
  cases ha : s.nextAnswer with
  | ok b0 b1 =>
    rw [txStep_of_ok ha]
    exact ⟨some (.bw bytes true), rfl, .success s.fr.v0 s.fr.v1 hw hm (decide_eq_true rfl) rfl⟩
  | fail =>
    rw [txStep_of_fail ha]
    exact ⟨some (.bw bytes false), rfl, .failure hw hm (decide_eq_true rfl) rfl⟩

theorem rxStep_moves {s : State} {k : Latch} (hw : s.fr.wkind = .none) (hm : s.fr.current s.params = some (.rx k)) :
    MovedTo s (rxStep k s) := by
  cases ha : s.nextAnswer with
  | ok b0 b1 =>
    rw [rxStep_of_ok ha]
    refine ⟨some (.br 2 (some [b0, b1])), rfl, ?_⟩
    cases k with
    | v0 => exact .success (be16 b0 b1) s.fr.v1 hw hm rfl rfl
    | v1 => exact .success s.fr.v0 (be16 b0 b1) hw hm rfl rfl
  | fail =>
    rw [rxStep_of_fail ha]
    exact ⟨some (.br 2 none), rfl, .failure hw hm rfl rfl⟩

theorem microStep_moves {s : State} {m : MicroOp} (hw : s.fr.wkind = .none) (hm : s.fr.current s.params = some m) :
    MovedTo s (microStep m s) := by
  cases m with
  | tx bytes => exact txStep_moves hw hm
  | rx k => exact rxStep_moves hw hm
  | idchk => exact movedTo_of_silent rfl (.idchk hw hm)
  | waitSettle => exact movedTo_of_silent rfl (.waitSettle hw hm)
  | fin kind => exact movedTo_of_silent rfl (.fin hw hm)

theorem Framer.endWait_moves {p : Params} {f : Framer} (hw : f.wkind ≠ .none) : f.Moves p none f.endWait := by
  unfold Framer.endWait
  split
  · exact .backoffEnd ‹_›
  · exact .settleEnd ‹_›
  · exact absurd ‹_› hw

/-- The framer's turn changes nothing, while idle or waiting, or is a move. -/
theorem framerTurn_moves {s s' : State} (h : framerTurn s = .next s') :
    (s' = s ∧ (s.fr.busy = false ∨ s.fr.wkind ≠ .none ∧ s.fr.wcnt < s.fr.wneed)) ∨
    (s.fr.busy = true ∧ MovedTo s s') := by
  obtain ⟨hb, rfl⟩ | ⟨-, hw, hlt, rfl⟩ | ⟨hb, hw, -, rfl⟩ | ⟨m, hb, hw, hm, rfl⟩ := framerTurn_next_cases h
  · exact .inl ⟨rfl, .inl hb⟩
  · exact .inl ⟨rfl, .inr ⟨hw, hlt⟩⟩
  · exact .inr ⟨hb, movedTo_of_silent rfl (Framer.endWait_moves hw)⟩
  · exact .inr ⟨hb, microStep_moves hw hm⟩

theorem Framer.Moves.program_eq {p : Params} {f f' : Framer} {e : Option BusEvent} (h : f.Moves p e f') :
    f'.program p = f.program p := by
  cases h with
  | failure hw hm he hfail =>
    obtain ⟨-, hf⟩ | ⟨-, hf⟩ := failedAttempt_cases p f
    · rw [hf]; rfl
    · rw [hf]; rfl
  | backoffEnd hw => rfl
  | settleEnd hw => rfl
  | success v0 v1 hw hm he hok => rfl
  | idchk hw hm => rfl
  | waitSettle hw hm => rfl
  | fin hw hm => rfl

/-! ### What a command's moves keep -/

/-- From `s` to `u` the framer has put `new` on the bus, and `J` holds of `new` and the framer group. -/
structure RunsWith (J : List BusEvent → Framer → Prop) (s u : State) : Prop where
  inv : u.Inv
  params : u.params = s.params
  events : ∃ new, u.busHist = s.busHist ++ new ∧ J new u.fr

section Keeps

variable {J : List BusEvent → Framer → Prop} {s u u' : State}

theorem RunsWith.same (h : RunsWith J s u) (hinv : u'.Inv) (hparams : u'.params = u.params)
    (hhist : u'.busHist = u.busHist) (hfr : u'.fr = u.fr) : RunsWith J s u' :=
  ⟨hinv, hparams.trans h.params, by rw [hhist, hfr]; exact h.events⟩

/-- A property of the events and the framer group that the tick and every move keep is kept by every turn but the host's
and RESET's. -/
theorem RunsWith.runTurn (htick : ∀ new f, J new f → J new f.tick)
    (hmove : ∀ new f e f', f.Inv s.params → f.busy = true → J new f → f.Moves s.params e f' → J (new ++ e.toList) f')
    {t : Turn} (h : RunsWith J s u) (hhost : t ≠ .host) (hreset : t ≠ .reset) (ht : runTurn t u = .next u') :
    RunsWith J s u' := by
  have hinv' : u'.Inv := runTurn_keeps_inv h.inv ht
  obtain ⟨new, hnew, hJ⟩ := h.events
  cases t with
  | host => exact absurd rfl hhost
  | framer =>
    obtain ⟨rfl, -⟩ | ⟨hb, e, hhist, hmv⟩ := framerTurn_moves ht
    · exact h
    · refine ⟨hinv', (framerTurn_frame ht).1.trans h.params, new ++ e.toList, ?_, ?_⟩
      · rw [hhist, hnew, List.append_assoc]
      · rw [h.params] at hmv
        exact hmove new u.fr e u'.fr (h.params ▸ h.inv.fr) hb hJ hmv
  | tick => cases ht; exact ⟨hinv', h.params, new, hnew, htick new u.fr hJ⟩
  | handler => cases ht; exact h.same hinv' rfl rfl rfl
  | loader => cases ht; exact h.same hinv' rfl rfl rfl
  | reset => exact absurd rfl hreset

/-- So an undisturbed schedule keeps it. -/
theorem play_runsWith (htick : ∀ new f, J new f → J new f.tick)
    (hmove : ∀ new f e f', f.Inv s.params → f.busy = true → J new f → f.Moves s.params e f' → J (new ++ e.toList) f')
    {ts : List Turn} {s' : State} (hinv : s.Inv) (h : J [] s.fr) (hts : Undisturbed ts)
    (hplay : play ts s = .next s') : RunsWith J s s' :=
  play_undisturbed_keeps (fun _ h => h.same (h.inv.withEnv _) rfl rfl rfl)
    (fun _ _ _ hhost hreset h ht => h.runTurn htick hmove hhost hreset ht)
    ⟨hinv, rfl, [], (List.append_nil _).symm, h⟩ hts hplay

end Keeps

end Sys2Proof.Machine
end

section
/-! PROOFS. Every bus attempt is of the primitive after those that have succeeded (spec/40_bus_transport.md R110,
41_register_protocol.md R123, R128, R130): FR.PC tells how many have, and an attempt is of the primitive at it. -/

namespace Sys2Proof.Machine

open Sys2Proof.Config

/-! ### The primitives of a program -/

theorem isPrimitive_of_isAttemptOf {m : MicroOp} {e : BusEvent} (h : isAttemptOf m e = true) : isPrimitive m = true := by
  cases m with
  | tx bytes => rfl
  | rx k => rfl
  | idchk => cases e <;> cases h
  | waitSettle => cases e <;> cases h
  | fin kind => cases e <;> cases h

/-- How many primitives of program `P` stand before place `k`. -/
def primitivesBefore (P : List MicroOp) (k : Nat) : Nat := (primitives (P.take k)).length

section Primitives

variable {P : List MicroOp} {k : Nat} {m : MicroOp}

theorem primitives_take_succ_of_primitive (hm : P[k]? = some m) (hprim : isPrimitive m = true) :
    primitives (P.take (k + 1)) = primitives (P.take k) ++ [m] := by
  rw [List.take_add_one, hm, primitives, List.filter_append, Option.toList_some, List.filter_singleton, hprim]
  rfl

theorem primitives_take_succ_of_not_primitive (hm : P[k]? = some m) (hprim : isPrimitive m = false) :
    primitives (P.take (k + 1)) = primitives (P.take k) := by
  rw [List.take_add_one, hm, primitives, List.filter_append, Option.toList_some, List.filter_singleton, hprim]
  exact List.append_nil _

theorem primitivesBefore_succ_of_primitive (hm : P[k]? = some m) (hprim : isPrimitive m = true) :
    primitivesBefore P (k + 1) = primitivesBefore P k + 1 := by
  rw [primitivesBefore, primitives_take_succ_of_primitive hm hprim, List.length_append]
  rfl

theorem primitivesBefore_succ_of_not_primitive (hm : P[k]? = some m) (hprim : isPrimitive m = false) :
    primitivesBefore P (k + 1) = primitivesBefore P k :=
  congrArg List.length (primitives_take_succ_of_not_primitive hm hprim)

/-- The primitive at place `k` comes after those of the places before it. -/
theorem primitives_getElem (hm : P[k]? = some m) (hprim : isPrimitive m = true) :
    (primitives P)[primitivesBefore P k]? = some m := by
  have hprefix : primitives (P.take (k + 1)) <+: primitives P := (List.take_prefix (k + 1) P).filter isPrimitive
  rw [primitives_take_succ_of_primitive hm hprim] at hprefix
  obtain ⟨rest, hrest⟩ := hprefix
  simp [← hrest, primitivesBefore]

theorem primitivesBefore_lt (hm : P[k]? = some m) (hprim : isPrimitive m = true) :
    primitivesBefore P k < (primitives P).length := (List.getElem?_eq_some_iff.mp (primitives_getElem hm hprim)).1

/-- All primitives of a program stand before its FIN. -/
theorem primitivesBefore_of_fin {p : Params} {f : Framer} {kind : FinKind} (hm : f.current p = some (.fin kind)) :
    primitivesBefore (f.program p) f.pc = (primitives (f.program p)).length := by
  have hlast : f.pc + 1 = (f.program p).length := (prog_fin_iff_last p f.opc f.a f.d f.pc _ hm).mp rfl
  rw [← primitivesBefore_succ_of_not_primitive (P := f.program p) (k := f.pc) hm rfl, hlast, primitivesBefore,
    List.take_length]

end Primitives

/-- Each success, and nothing else, takes the framer past a primitive. -/
theorem Framer.Moves.primitivesBefore {p : Params} {f f' : Framer} {e : Option BusEvent} (hinv : f.Inv p)
    (h : f.Moves p e f') : primitivesBefore (f.program p) f'.pc =
      primitivesBefore (f.program p) f.pc + e.toList.countP succeeded := by
  cases h with
  | settleEnd hw => exact primitivesBefore_succ_of_not_primitive (hinv.settle hw).1 rfl
  | success v0 v1 hw hm he hok =>
    rw [primitivesBefore_succ_of_primitive hm (isPrimitive_of_isAttemptOf he)]
    simp [hok]
  | failure hw hm he hfail =>
    have hpc : (f.failedAttempt p).pc = f.pc := by
      obtain ⟨-, hf⟩ | ⟨-, hf⟩ := failedAttempt_cases p f
      · rw [hf]
      · rw [hf]
    simp [hpc, hfail]
  | idchk hw hm => exact primitivesBefore_succ_of_not_primitive (P := f.program p) (k := f.pc) hm rfl
  | backoffEnd hw => rfl
  | waitSettle hw hm => rfl
  | fin hw hm => rfl

/-! ### Every attempt is of the next primitive -/

/-- Every attempt in `new` is of the primitive of program `P` after those that had succeeded before it. -/
def AttemptsInOrder (P : List MicroOp) (new : List BusEvent) : Prop :=
  ∀ pre e, pre ++ [e] <+: new → ∃ m, (primitives P)[pre.countP succeeded]? = some m ∧ isAttemptOf m e = true

theorem attemptsInOrder_nil (P : List MicroOp) : AttemptsInOrder P [] := by
  intro pre e h
  simp at h

theorem AttemptsInOrder.concat {P : List MicroOp} {new : List BusEvent} {e : BusEvent} {m : MicroOp}
    (h : AttemptsInOrder P new) (hm : (primitives P)[new.countP succeeded]? = some m) (he : isAttemptOf m e = true) :
    AttemptsInOrder P (new ++ [e]) := by
  intro pre e' hprefix
  obtain hsame | hbefore := List.prefix_concat_iff.mp hprefix
  · obtain ⟨rfl, hlast⟩ := List.append_inj' hsame rfl
    obtain rfl := List.singleton_inj.mp hlast
    exact ⟨m, hm, he⟩
  · exact h pre e' hbefore

/-- The framer runs program `P`, and `new` holds its attempts: those of the primitives before FR.PC, each ended with a
success, and the failed ones so far of the primitive at FR.PC. -/
structure Framer.Attempted (p : Params) (P : List MicroOp) (new : List BusEvent) (f : Framer) : Prop where
  program : f.program p = P
  inOrder : AttemptsInOrder P new
  successes : new.countP succeeded = primitivesBefore P f.pc

section Attempted

variable {p : Params} {P : List MicroOp} {new : List BusEvent} {f f' : Framer} {e : Option BusEvent}

/-- A move's attempt, if it makes one, is of the primitive at FR.PC. -/
theorem Framer.Moves.attempt_of_current {ev : BusEvent} (h : f.Moves p (some ev) f') :
    ∃ m, f.current p = some m ∧ isAttemptOf m ev = true := by
  cases h with
  | success v0 v1 hw hm he hok => exact ⟨_, hm, he⟩
  | failure hw hm he hfail => exact ⟨_, hm, he⟩

theorem Framer.Attempted.move (hinv : f.Inv p) (h : f.Attempted p P new) (hmv : f.Moves p e f') :
    f'.Attempted p P (new ++ e.toList) where
  program := hmv.program_eq.trans h.program
  inOrder := by
    cases e with
    | none => rw [Option.toList_none, List.append_nil]; exact h.inOrder
    | some ev =>
      obtain ⟨m, hm, he⟩ := hmv.attempt_of_current
      have hmP : P[f.pc]? = some m := h.program ▸ hm
      refine h.inOrder.concat ?_ he
      rw [h.successes]
      exact primitives_getElem hmP (isPrimitive_of_isAttemptOf he)
  successes := by
    have hbefore := hmv.primitivesBefore hinv
    rw [h.program] at hbefore
    rw [List.countP_append, h.successes, hbefore]

theorem Framer.Attempted.tick (h : f.Attempted p P new) : f.tick.Attempted p P new := by
  obtain ⟨n, hn⟩ := f.tick_eq
  rw [hn]
  exact { h with }

end Attempted

/-- Settles O60: the attempts stay in the order of the program (`Framer.Attempted.move`), and a command that has ended
without an error stands at its FIN (`play_followed`), all its primitives behind it. -/
theorem everyAttemptIsOfTheNextPrimitive : Obligations.EveryAttemptIsOfTheNextPrimitive := by
  intro s s' ts hinv hb hpc _ _ hts hplay
  have hstart : s.fr.Attempted s.params (s.fr.program s.params) [] :=
    ⟨rfl, attemptsInOrder_nil _, by rw [hpc]; rfl⟩
  obtain ⟨-, -, new, hhist, -, hinOrder, hsuccesses⟩ :=
    play_runsWith (fun _ _ h => h.tick) (fun _ _ _ _ hfinv _ h hmv => h.move hfinv hmv) hinv hstart hts hplay
  obtain ⟨_, -, hfollows⟩ := play_followed hinv (s.fr.follows_of_start hb hpc) hts hplay
  refine ⟨new, hhist, fun pre e post hsplit => ?_, fun hidle herr => ?_⟩
  · exact hinOrder pre e ⟨post, by simp [hsplit]⟩
  · obtain ⟨kind, hfin⟩ := hfollows.ended hidle herr
    have hall := primitivesBefore_of_fin hfin
    rw [hfollows.program] at hall
    exact hsuccesses.trans hall

end Sys2Proof.Machine
end

section
/-! PROOFS. A command makes at most P_MAX_RETRIES attempts of each of its primitives (spec/40_bus_transport.md R109). -/

namespace Sys2Proof.Machine

open Sys2Proof.Config

/-- The framer runs program `P`, and `new` holds at most P_MAX_RETRIES attempts of each primitive before FR.PC, and of the
one at FR.PC as many as FR.ATTEMPT and a running backoff tell. -/
structure Framer.Bounded (p : Params) (P : List MicroOp) (new : List BusEvent) (f : Framer) : Prop where
  program : f.program p = P
  whole : new.length ≤ (primitives P).length * p.maxRetries
  soFar : f.busy = true → new.length + 1 ≤
    primitivesBefore P f.pc * p.maxRetries + f.attempt + (if f.wkind = .backoff then 1 else 0)

section Bounded

variable {p : Params} {P : List MicroOp} {new : List BusEvent} {f f' : Framer} {m : MicroOp}

/-- One attempt more of the primitive at FR.PC is still at most P_MAX_RETRIES of it. -/
theorem Framer.Bounded.attempt_le (hinv : f.Inv p) (h : f.Bounded p P new) (hb : f.busy = true) (hw : f.wkind = .none)
    (hm : P[f.pc]? = some m) (hprim : isPrimitive m = true) :
    new.length + 1 ≤ primitivesBefore P (f.pc + 1) * p.maxRetries ∧
      primitivesBefore P (f.pc + 1) * p.maxRetries ≤ (primitives P).length * p.maxRetries := by
  have hsoFar := h.soFar hb
  have hlast : f.attempt ≤ p.maxRetries := (hinv.attemptRange hb).2
  rw [if_neg (by simp [hw])] at hsoFar
  rw [primitivesBefore_succ_of_primitive hm hprim]
  refine ⟨?_, Nat.mul_le_mul_right _ (primitivesBefore_lt hm hprim)⟩
  rw [Nat.succ_mul]
  omega

/-- A silent move keeps the bound where it does not lower what the framer group tells. -/
theorem Framer.Bounded.silent (h : f.Bounded p P new) (hprog : f'.program p = f.program p)
    (hsoFar : f'.busy = true → new.length + 1 ≤
      primitivesBefore P f'.pc * p.maxRetries + f'.attempt + (if f'.wkind = .backoff then 1 else 0)) :
    f'.Bounded p P (new ++ (none : Option BusEvent).toList) := by
  rw [Option.toList_none, List.append_nil]
  exact ⟨hprog.trans h.program, h.whole, hsoFar⟩

theorem Framer.Bounded.move {e : Option BusEvent} (hinv : f.Inv p) (hb : f.busy = true) (h : f.Bounded p P new)
    (hmv : f.Moves p e f') : f'.Bounded p P (new ++ e.toList) := by
  have hprog := hmv.program_eq
  have hsoFar := h.soFar hb
  have hbefore := hmv.primitivesBefore hinv
  rw [h.program] at hbefore
  cases hmv with
  | backoffEnd hw =>
    refine h.silent rfl fun _ => ?_
    rw [if_pos hw] at hsoFar
    simpa [Nat.add_assoc] using hsoFar
  | settleEnd hw =>
    refine h.silent rfl fun _ => ?_
    simpa [hw, hbefore] using hsoFar
  | success v0 v1 hw hm he hok =>
    obtain ⟨hone, hwhole⟩ := h.attempt_le hinv hb hw (h.program ▸ hm) (isPrimitive_of_isAttemptOf he)
    refine ⟨h.program, ?_, fun _ => ?_⟩
    · simpa using hone.trans hwhole
    · simpa [hw] using hone
  | failure hw hm he hfail =>
    obtain ⟨hone, hwhole⟩ := h.attempt_le hinv hb hw (h.program ▸ hm) (isPrimitive_of_isAttemptOf he)
    refine ⟨hprog.trans h.program, by simpa using hone.trans hwhole, fun hb' => ?_⟩
    obtain ⟨-, hf⟩ | ⟨-, hf⟩ := failedAttempt_cases p f
    · simpa [hf, hw] using hsoFar
    · rw [hf] at hb'; cases hb'
  | idchk hw hm =>
    refine h.silent rfl fun _ => ?_
    rw [hbefore]
    exact hsoFar
  | waitSettle hw hm =>
    refine h.silent rfl fun _ => ?_
    simpa [Framer.startWait, hw] using hsoFar
  | fin hw hm => exact h.silent rfl fun hb' => nomatch hb'

theorem Framer.Bounded.tick (h : f.Bounded p P new) : f.tick.Bounded p P new := by
  obtain ⟨n, hn⟩ := f.tick_eq
  rw [hn]
  exact { h with }

end Bounded

/-- R109's count of a command's primitives is its program's; a channel operand that names no channel has none. -/
theorem primitives_prog_length_le (p : Params) (opc : BitVec 4) (a : Byte) (d : Half) :
    (primitives (prog p opc a d)).length ≤ primitiveCount opc := by
  unfold prog
  split
  next hop => rw [primitiveCount, hop]; exact Nat.le_refl 1
  next hop => rw [primitiveCount, hop]; exact Nat.le_refl 2
  next hop =>
    rw [primitiveCount, hop]
    split
    · exact Nat.le_refl 4
    · exact Nat.zero_le 4
  next hop => rw [primitiveCount, hop]; exact Nat.le_refl 2
  next hop => rw [primitiveCount, hop]; exact Nat.le_refl 1
  next hop => rw [primitiveCount, hop]; exact Nat.le_refl 20
  next => exact Nat.zero_le _

/-- Settles O22: the attempts so far are bounded move by move (`Framer.Bounded.move`), and the program has R109's number
of primitives. -/
theorem attemptsAreBounded : Obligations.AttemptsAreBounded := by
  intro s s' ts hinv hb hpc hattempt hw hts hplay
  have hstart : s.fr.Bounded s.params (s.fr.program s.params) [] :=
    ⟨rfl, Nat.zero_le _, fun _ => by rw [hattempt]; exact Nat.le_add_right_of_le (Nat.le_add_left 1 _)⟩
  obtain ⟨-, -, new, hhist, -, hwhole, -⟩ :=
    play_runsWith (fun _ _ h => h.tick) (fun _ _ _ _ hfinv hfb h hmv => h.move hfinv hfb hmv) hinv hstart hts hplay
  rw [hhist, List.length_append]
  exact Nat.add_le_add_left (hwhole.trans (Nat.mul_le_mul_right _ (primitives_prog_length_le _ _ _ _))) _

end Sys2Proof.Machine
end

section
/-! PROOFS. Every running command ends under a fair schedule (spec/40_bus_transport.md R109, 70_reset_and_hazards.md R236):
each round of framer and tick lowers the work left to it, whatever the oracle answers. -/

namespace Sys2Proof.Machine

open Sys2Proof.Config

/-! ### The work left -/

/-- What is left of a running command, the first part the most significant: micro-operations, attempts of the one at
FR.PC, whether its wait is still to begin, ticks of its wait. -/
def Framer.workLeft (p : Params) (f : Framer) : ℕ ×ₗ ℕ ×ₗ ℕ ×ₗ ℕ :=
  toLex ((f.program p).length - f.pc, toLex (p.maxRetries - f.attempt,
    toLex (if f.wkind = .none then 1 else 0, f.wneed - f.wcnt)))

section WorkLeft

variable {p : Params} {f f' : Framer}

theorem Framer.workLeft_lt_of_pc (hinv : f.Inv p) (hb : f.busy = true) (hprog : f'.program p = f.program p)
    (hpc : f'.pc = f.pc + 1) : f'.workLeft p < f.workLeft p := by
  have hlt : f.pc < (f.program p).length := hinv.onProgram hb
  refine Prod.Lex.toLex_lt_toLex.mpr (.inl ?_)
  change (f'.program p).length - f'.pc < (f.program p).length - f.pc
  rw [hprog, hpc]
  omega

theorem Framer.workLeft_lt_of_attempt (hprog : f'.program p = f.program p) (hpc : f'.pc = f.pc)
    (hlt : f.attempt < p.maxRetries) (hattempt : f'.attempt = f.attempt + 1) : f'.workLeft p < f.workLeft p := by
  refine Prod.Lex.toLex_lt_toLex.mpr (.inr ⟨by rw [hprog, hpc], Prod.Lex.toLex_lt_toLex.mpr (.inl ?_)⟩)
  change p.maxRetries - f'.attempt < p.maxRetries - f.attempt
  omega

/-- What the last two parts say is compared where the first two are the same. -/
theorem Framer.workLeft_lt_of_wait (hprog : f'.program p = f.program p) (hpc : f'.pc = f.pc)
    (hattempt : f'.attempt = f.attempt)
    (hwait : f.wkind = .none ∧ f'.wkind ≠ .none ∨ f'.wkind = f.wkind ∧ f'.wneed - f'.wcnt < f.wneed - f.wcnt) :
    f'.workLeft p < f.workLeft p := by
  refine Prod.Lex.toLex_lt_toLex.mpr (.inr ⟨by rw [hprog, hpc], Prod.Lex.toLex_lt_toLex.mpr
    (.inr ⟨by rw [hattempt], Prod.Lex.toLex_lt_toLex.mpr ?_⟩)⟩)
  obtain ⟨hw, hw'⟩ | ⟨hw, hlt⟩ := hwait
  · exact .inl (by simp [hw, hw'])
  · exact .inr ⟨by rw [hw], hlt⟩

/-- Every move ends the command or lowers the work left. -/
theorem Framer.Moves.workLeft_lt {e : Option BusEvent} (hinv : f.Inv p) (hb : f.busy = true) (h : f.Moves p e f') :
    f'.busy = false ∨ f'.workLeft p < f.workLeft p := by
  cases h with
  | backoffEnd hw => exact .inr (Framer.workLeft_lt_of_attempt rfl rfl (hinv.backoff hw).1 rfl)
  | settleEnd hw => exact .inr (Framer.workLeft_lt_of_pc hinv hb rfl rfl)
  | success v0 v1 hw hm he hok => exact .inr (Framer.workLeft_lt_of_pc hinv hb rfl rfl)
  | failure hw hm he hfail =>
    obtain ⟨-, hf⟩ | ⟨-, hf⟩ := failedAttempt_cases p f
    · rw [hf]; exact .inr (Framer.workLeft_lt_of_wait rfl rfl rfl (.inl ⟨hw, nofun⟩))
    · rw [hf]; exact .inl rfl
  | idchk hw hm => exact .inr (Framer.workLeft_lt_of_pc hinv hb rfl rfl)
  | waitSettle hw hm => exact .inr (Framer.workLeft_lt_of_wait rfl rfl rfl (.inl ⟨hw, nofun⟩))
  | fin hw hm => exact .inl rfl

theorem Framer.workLeft_tick_lt (hw : f.wkind ≠ .none) (hlt : f.wcnt < f.wneed) :
    f.tick.workLeft p < f.workLeft p := by
  rw [Framer.tick_of_wait hw, Nat.min_eq_left hlt]
  exact Framer.workLeft_lt_of_wait rfl rfl rfl (.inr ⟨rfl, Nat.sub_succ_lt_self _ _ hlt⟩)

/-- A tick adds no work: it changes nothing unless a wait's ticks are missing. -/
theorem Framer.workLeft_tick_le (hinv : f.Inv p) : f.tick.workLeft p ≤ f.workLeft p := by
  by_cases hw : f.wkind = .none
  · rw [Framer.tick_of_no_wait hw]
  · obtain hlt | heq := Nat.lt_or_eq_of_le hinv.waitRange
    · exact (Framer.workLeft_tick_lt hw hlt).le
    · have hstay : min (f.wcnt + 1) f.wneed = f.wcnt := by omega
      rw [Framer.tick_of_wait hw, hstay]

end WorkLeft

/-! ### Rounds -/

section Rounds

variable {s : State}

/-- A framer inside its program has a next state (40_bus_transport.md R110, 10_state.md R25). -/
theorem framerTurn_next (hinv : s.fr.Inv s.params) : ∃ s', framerTurn s = .next s' := by
  by_cases hb : s.fr.busy = false
  · exact ⟨s, framerTurn_of_idle hb⟩
  · have hb : s.fr.busy = true := by simpa using hb
    by_cases hw : s.fr.wkind = .none
    · exact ⟨_, framerTurn_of_current hb hw (List.getElem?_eq_getElem (hinv.onProgram hb))⟩
    · exact ⟨_, framerTurn_of_wait hb hw⟩

theorem play_cons_of_next {t : Turn} {u : State} (h : runTurn t s.counted = .next u) (ts : List Turn) :
    play (t :: ts) s = play ts u := by rw [play_cons, h]

/-- A framer turn and a tick end the command or lower the work left. -/
theorem round_lowers_workLeft (hinv : s.Inv) (hb : s.fr.busy = true) :
    ∃ u, (∀ ts, play (.framer :: .tick :: ts) s = play ts u) ∧ u.Inv ∧ u.params = s.params ∧
      (u.fr.busy = false ∨ u.fr.workLeft s.params < s.fr.workLeft s.params) := by
  have hcounted : s.counted.Inv := hinv.withEnv _
  obtain ⟨v, hv⟩ := framerTurn_next hcounted.fr
  have hvinv : v.Inv := framerTurn_keeps_inv hcounted hv
  have hparams : v.params = s.params := (framerTurn_frame hv).1
  have htick : runTurn .tick v.counted = .next (tickStep v.counted) := rfl
  refine ⟨tickStep v.counted, fun ts => ?plays, runTurn_keeps_inv (hvinv.withEnv _) htick, hparams, ?lowers⟩
  case plays => rw [play_cons_of_next (t := .framer) hv, play_cons_of_next htick]
  case lowers =>
    change v.fr.tick.busy = false ∨ v.fr.tick.workLeft s.params < s.fr.workLeft s.params
    obtain ⟨rfl, hidle | ⟨hw, hlt⟩⟩ | ⟨-, e, -, hmv⟩ := framerTurn_moves hv
    · exact absurd hb (by simpa using hidle)
    · exact .inr (Framer.workLeft_tick_lt hw hlt)
    · obtain hend | hlt := hmv.workLeft_lt hinv.fr hb
      · obtain ⟨n, hn⟩ := v.fr.tick_eq
        rw [hn]
        exact .inl hend
      · exact .inr ((Framer.workLeft_tick_le (hparams ▸ hvinv.fr)).trans_lt hlt)

end Rounds

/-- By induction on the work left: a round ends the command, or leaves less work to the rounds after it. -/
theorem roundRobin_ends {p : Params} {s : State} (hinv : s.Inv) (hp : s.params = p) (hb : s.fr.busy = true) :
    ∃ n s', play (roundRobin n) s = .next s' ∧ s'.fr.busy = false := by
  induction hwork : s.fr.workLeft p using WellFoundedLT.induction generalizing s with
  | ind work ih =>
    obtain ⟨u, hround, huinv, huparams, hlowers⟩ := round_lowers_workLeft hinv hb
    cases hub : u.fr.busy with
    | false => exact ⟨1, u, hround [], hub⟩
    | true =>
      have hlt : u.fr.workLeft p < work := by
        obtain hidle | hlt := hlowers
        · exact nomatch hub.symm.trans hidle
        · rwa [hp, hwork] at hlt
      obtain ⟨n, s', hplay, hend⟩ := ih _ hlt huinv (huparams.trans hp) hub rfl
      exact ⟨n + 1, s', (hround (roundRobin n)).trans hplay, hend⟩

/-- Settles O23, by induction on the work left (`roundRobin_ends`). -/
theorem roundRobinEndsEveryCommand : Obligations.RoundRobinEndsEveryCommand :=
  fun _ hinv hb => roundRobin_ends hinv rfl hb

end Sys2Proof.Machine
end

section
/-! PROOFS. How a framer command is accepted (spec/41_register_protocol.md R120), and INIT's two steps that no other
command has: the identity check (R131) and the settle delay (40_bus_transport.md R108). -/

namespace Sys2Proof.Machine

open Sys2Proof.Config

/-! ### Acceptance -/

/-- An idle framer starts every command but an RDRES of no channel (R120). -/
theorem issueFramer_of_idle {s : State} {opc : BitVec 4} {a : Byte} (hb : s.fr.busy = false)
    (hch : ¬(opc = opRDRES ∧ channelValid a = false)) (d : Half) :
    issueFramer opc a d s = s.withFr (s.fr.start opc a d) := by
  rw [issueFramer, hb, if_neg Bool.false_ne_true, Framer.accept, if_neg hch]

theorem channelValid_iff (ch : Byte) : channelValid ch = true ↔ ch.toNat < 4 := decide_eq_true_iff

/-- The CMD write of a command without a channel starts it from every idle framer. -/
theorem start_of_not_rdres {s : State} {opc : BitVec 4} (hb : s.fr.busy = false) (hopc : opc ≠ opRDRES) (a : Byte)
    (d : Half) : (.next (issueFramer opc a d s) : Host.Outcome State Fault Refusal) =
      .next (s.withFr (s.fr.start opc a d)) :=
  congrArg _ (issueFramer_of_idle hb (fun h => hopc h.1) d)

theorem exec_rdres_of_channel {s : State} {ch : Byte} (hb : s.fr.busy = false) (hch : ch.toNat < 4) :
    exec (.rdres ch) s = .next (s.withFr (s.fr.start opRDRES ch 0)) :=
  congrArg Host.Outcome.next (issueFramer_of_idle hb (by simp [(channelValid_iff ch).mpr hch]) 0)

theorem exec_rdres_of_no_channel {s : State} {ch : Byte} (hb : s.fr.busy = false) (hch : 4 ≤ ch.toNat) :
    exec (.rdres ch) s = .next (s.withFr { s.fr with err := .invalidParam }) := by
  have hinvalid : channelValid ch = false := decide_eq_false (Nat.not_lt_of_le hch)
  change Host.Outcome.next (issueFramer opRDRES ch 0 s) = _
  rw [issueFramer, hb, if_neg Bool.false_ne_true, Framer.accept, if_pos ⟨rfl, hinvalid⟩]

/-- Settles O9: the CMD write of a framer command is its acceptance, which starts it or turns it away. -/
theorem idleFramerAcceptsFramerCommands : Obligations.IdleFramerAcceptsFramerCommands := by
  intro s hb
  refine ⟨fun addr value => ?wrreg, fun addr => ?rdreg, fun ch => exec_rdres_of_channel hb,
    fun ch => exec_rdres_of_no_channel hb, ?rdid, ?devrst, ?init⟩
  case wrreg => exact start_of_not_rdres hb (by decide) addr value
  case rdreg => exact start_of_not_rdres hb (by decide) addr 0
  case rdid => exact start_of_not_rdres hb (by decide) 0 0
  case devrst => exact start_of_not_rdres hb (by decide) 0 0
  case init => exact start_of_not_rdres hb (by decide) 0 0

/-! ### The identity check and the settle wait -/

/-- SETTLE_TICKS, its ceiling written out (00_scope.md R8). -/
theorem settleTicks_eq (p : Params) : settleTicks p = (10 * p.tickHz + 999) / 1000 := by
  rw [settleTicks, msTicks, ceilDiv, Nat.add_sub_assoc (by decide), settleMs]

/-- Settles O16: either turn is the step of the micro-operation at FR.PC. -/
theorem identityCheckAndSettleSteps : Obligations.IdentityCheckAndSettleSteps := by
  intro s hb hw
  refine ⟨fun hm => ?idchk, fun hm => ?waitSettle⟩
  case idchk =>
    rw [framerTurn_of_current hb hw hm, decide_not, BitVec.ofNat_toNat]
    rfl
  case waitSettle =>
    rw [framerTurn_of_current hb hw hm, ← settleTicks_eq]
    rfl

end Sys2Proof.Machine
end

section
/-! PROOFS. Whole framer commands under every undisturbed schedule (spec/41_register_protocol.md R121 to R133). Only the
framer's turns carry a command on, whatever ticks, handler turns and loader turns come between them; so a run of it is
the chain of its framer turns (`Within`), and a schedule that holds enough of them plays the chain to its end. -/

namespace Sys2Proof.Machine

open Sys2Proof.Config

/-! ### Counting turns down -/

theorem play_append {ts1 : List Turn} {s u : State} (h : play ts1 s = .next u) (ts2 : List Turn) :
    play (ts1 ++ ts2) s = play ts2 u := by
  induction ts1 generalizing s with
  | nil => cases h; rfl
  | cons t ts ih =>
    obtain ⟨v, hv, hrest⟩ := play_cons_next h
    rw [List.cons_append, play_cons_of_next hv, ih hrest]

theorem undisturbed_cons {t : Turn} {ts : List Turn} :
    Undisturbed (t :: ts) ↔ t ≠ .host ∧ t ≠ .reset ∧ Undisturbed ts := by
  simp only [Undisturbed, List.mem_cons, not_or, ne_comm (a := t)]
  exact and_and_and_comm.trans and_assoc

theorem FramerAgrees.refl (s : State) : FramerAgrees s s := ⟨rfl, rfl, rfl, rfl, rfl⟩

theorem FramerAgrees.trans {s1 s2 s3 : State} (h : FramerAgrees s1 s2) (k : FramerAgrees s2 s3) : FramerAgrees s1 s3 :=
  ⟨h.params.trans k.params, h.fr.trans k.fr, h.busHist.trans k.busHist, h.oracle.trans k.oracle,
    h.hostProg.trans k.hostProg⟩

/-- A family of properties of the framer group and the bus in which every turn of agent `c` counts one down, as far as
the agents that can touch them go. -/
structure CountsDown (c : Turn) (R : Nat → State → Prop) : Prop where
  agrees : ∀ {n s u}, R n s → FramerAgrees s u → R n u
  framer : ∀ {n s}, R n s → ∃ u, framerTurn s = .next u ∧ R (n - [Turn.framer].count c) u
  tick : ∀ {n s}, R n s → R (n - [Turn.tick].count c) (tickStep s)

/-- An undisturbed schedule counts down the turns of `c` it holds. -/
theorem CountsDown.plays {c : Turn} {R : Nat → State → Prop} (hR : CountsDown c R) (hhandler : c ≠ .handler)
    (hloader : c ≠ .loader) {n : Nat} {s : State} (h : R n s) {ts : List Turn} (hts : Undisturbed ts) :
    ∃ s', play ts s = .next s' ∧ R (n - ts.count c) s' := by
  induction ts generalizing n s with
  | nil => exact ⟨s, play_nil s, h⟩
  | cons t ts ih =>
    obtain ⟨hhost, hreset, hrest⟩ := undisturbed_cons.mp hts
    have hcounted : R n s.counted := hR.agrees h ⟨rfl, rfl, rfl, rfl, rfl⟩
    have hturn : ∃ u, runTurn t s.counted = .next u ∧ R (n - [t].count c) u := by
      cases t with
      | host => exact absurd rfl hhost
      | framer => exact hR.framer hcounted
      | tick => exact ⟨_, rfl, hR.tick hcounted⟩
      | handler =>
        rw [List.count_singleton, if_neg (by simpa using hhandler.symm)]
        exact ⟨_, rfl, hR.agrees hcounted ⟨rfl, rfl, rfl, rfl, rfl⟩⟩
      | loader =>
        rw [List.count_singleton, if_neg (by simpa using hloader.symm)]
        exact ⟨_, rfl, hR.agrees hcounted ⟨rfl, rfl, rfl, rfl, rfl⟩⟩
      | reset => exact absurd rfl hreset
    obtain ⟨u, hu, hRu⟩ := hturn
    obtain ⟨s', hplay, hend⟩ := ih hRu hrest
    have hcount : (t :: ts).count c = [t].count c + ts.count c := List.count_append (l₁ := [t])
    rw [play_cons_of_next hu, hcount, ← Nat.sub_sub]
    exact ⟨s', hplay, hend⟩

/-- A property of the framer group and the bus that every turn keeps, as far as the agents that can touch them go. -/
abbrev Kept (Q : State → Prop) : Prop := CountsDown .framer fun _ => Q

/-- Having at most `k` turns to go is kept, where that is weaker than having fewer. -/
theorem CountsDown.kept {c : Turn} {R : Nat → State → Prop} (hR : CountsDown c R)
    (hmono : ∀ {m n s}, R m s → m ≤ n → R n s) (k : Nat) : Kept (R k) where
  agrees := hR.agrees
  framer h := (hR.framer h).imp fun _ hu => hu.imp_right (hmono · (Nat.sub_le _ _))
  tick h := hmono (hR.tick h) (Nat.sub_le _ _)

/-! ### Chains of framer turns -/

/-- At most `n` framer turns lead from the state to one in `Q`, and no tick changes the framer group on the way. -/
inductive Within (Q : State → Prop) : Nat → State → Prop
  | reached {n : Nat} {s : State} (h : Q s) : Within Q n s
  | turn {n : Nat} {s u : State} (ht : framerTurn s = .next u) (htick : s.fr.tick = s.fr) (h : Within Q n u) :
      Within Q (n + 1) s

/-- A machine that agrees with one whose framer can take its turn can take it too. -/
theorem framerTurn_next_of_agrees {s1 s2 s1' : State} (hR : FramerAgrees s1 s2) (h : framerTurn s1 = .next s1') :
    ∃ s2', framerTurn s2 = .next s2' ∧ FramerAgrees s1' s2' := by
  have hnext : ∃ s2', framerTurn s2 = .next s2' := by
    obtain ⟨hb, -⟩ | ⟨hb, hw, -⟩ | ⟨hb, hw, -⟩ | ⟨m, hb, hw, hm, -⟩ := framerTurn_next_cases h
    · exact ⟨_, framerTurn_of_idle (hR.fr ▸ hb)⟩
    · exact ⟨_, framerTurn_of_wait (hR.fr ▸ hb) (hR.fr ▸ hw)⟩
    · exact ⟨_, framerTurn_of_wait (hR.fr ▸ hb) (hR.fr ▸ hw)⟩
    · exact ⟨_, framerTurn_of_current (hR.fr ▸ hb) (hR.fr ▸ hw) (hR.fr ▸ hR.params ▸ hm)⟩
  obtain ⟨s2', h2⟩ := hnext
  exact ⟨s2', h2, hR.framerTurn h h2⟩

theorem framerAgrees_tickStep {s : State} (h : s.fr.tick = s.fr) : FramerAgrees s (tickStep s) :=
  ⟨rfl, h.symm, rfl, rfl, rfl⟩

section Within

variable {Q : State → Prop} {n m : Nat} {s u : State}

theorem Within.mono (h : Within Q n s) (hle : n ≤ m) : Within Q m s := by
  induction h generalizing m with
  | reached h => exact .reached h
  | turn ht htick _ ih =>
    obtain ⟨k, rfl⟩ := Nat.exists_eq_add_of_le' (Nat.one_le_of_lt hle)
    exact .turn ht htick (ih (Nat.le_of_succ_le_succ hle))

theorem Within.of_zero (h : Within Q 0 s) : Q s := by
  cases h with
  | reached h => exact h

theorem Within.agrees (hQ : Kept Q) (h : Within Q n s) (hR : FramerAgrees s u) : Within Q n u := by
  induction h generalizing u with
  | reached h => exact .reached (hQ.agrees (n := 0) h hR)
  | turn ht htick _ ih =>
    obtain ⟨u', hu', hR'⟩ := framerTurn_next_of_agrees hR ht
    exact .turn hu' (hR.fr ▸ htick) (ih hR')

theorem within_countsDown (hQ : Kept Q) : CountsDown .framer (Within Q) where
  agrees h hR := h.agrees hQ hR
  framer h := by
    cases h with
    | reached h =>
      obtain ⟨u, hu, hQu⟩ := hQ.framer (n := 0) h
      exact ⟨u, hu, .reached hQu⟩
    | turn ht _ h => exact ⟨_, ht, h⟩
  tick h := by
    cases h with
    | reached h => exact .reached (hQ.tick (n := 0) h)
    | turn ht htick h => exact (Within.turn ht htick h).agrees hQ (framerAgrees_tickStep htick)

/-- A schedule that holds the framer turns of a chain plays it to its end. -/
theorem Within.plays (h : Within Q n s) (hQ : Kept Q) {ts : List Turn} (hts : Undisturbed ts)
    (hn : n ≤ ts.count .framer) : ∃ s', play ts s = .next s' ∧ Q s' := by
  obtain ⟨s', hplay, hend⟩ := (within_countsDown hQ).plays nofun nofun h hts
  rw [Nat.sub_eq_zero_of_le hn] at hend
  exact ⟨s', hplay, hend.of_zero⟩

end Within

/-- What an idle framer shows, it shows after every further turn (40_bus_transport.md R110). -/
theorem kept_of_idle {w : State} (hb : w.fr.busy = false) (hw : w.fr.wkind = .none) : Kept (FramerAgrees w) where
  agrees := FramerAgrees.trans
  framer h := ⟨_, framerTurn_of_idle (h.fr ▸ hb), h⟩
  tick h := h.trans (framerAgrees_tickStep (Framer.tick_of_no_wait (h.fr ▸ hw)))

/-! ### The micro-operations to come -/

/-- The framer runs a command, no wait is in progress, and `ms` are the micro-operations to come, the first at its first
attempt. -/
structure ToRun (s : State) (ms : List MicroOp) : Prop where
  busy : s.fr.busy = true
  wkind : s.fr.wkind = .none
  attempt : s.fr.attempt = 1
  left : (s.fr.program s.params).drop s.fr.pc = ms

/-- A command that has been accepted has its whole program to come (R120). -/
theorem toRun_of_start (s : State) (opc : BitVec 4) (a : Byte) (d : Half) :
    ToRun (s.withFr (s.fr.start opc a d)) (prog s.params opc a d) := ⟨rfl, rfl, rfl, rfl⟩

/-- The state after the frames were sent one after another, each acknowledged at its first attempt, with `rest` the
answers still to come (40_bus_transport.md R102). -/
def State.sent (s : State) (frames : List (List Byte)) (rest : List BusAnswer) : State :=
  { s with
    fr := { s.fr with pc := s.fr.pc + frames.length, attempt := 1 }
    busHist := s.busHist ++ frames.map (.bw · true)
    env := { s.env with oracle := rest } }

/-- The state after two bytes were received into a latch, with `rest` the answers still to come (R103). -/
def State.received (s : State) (k : Latch) (b0 b1 : Byte) (rest : List BusAnswer) : State :=
  { s with
    fr := (s.fr.latch k (be16 b0 b1)).advance
    busHist := s.busHist ++ [.br 2 (some [b0, b1])]
    env := { s.env with oracle := rest } }

section ToRun

variable {s : State} {ms : List MicroOp} {rest : List BusAnswer} {c0 c1 : Byte}

theorem State.nextAnswer_of_listed {b : BusAnswer} (h : s.env.oracle = b :: rest) : s.nextAnswer = b := by
  simp only [State.nextAnswer, h]

theorem txStep_eq_sent (ho : s.env.oracle = .ok c0 c1 :: rest) (bytes : List Byte) :
    txStep bytes s = s.sent [bytes] rest := by
  rw [txStep_of_ok (State.nextAnswer_of_listed ho)]
  simp only [State.afterAnswer, ho]
  rfl

theorem rxStep_eq_received (ho : s.env.oracle = .ok c0 c1 :: rest) (k : Latch) :
    rxStep k s = s.received k c0 c1 rest := by
  rw [rxStep_of_ok (State.nextAnswer_of_listed ho)]
  simp only [State.afterAnswer, ho]
  rfl

theorem State.sent_nil (ha : s.fr.attempt = 1) : s.sent [] s.env.oracle = s := by
  rw [State.sent, ← ha, List.map_nil, List.append_nil]
  rfl

theorem State.sent_sent (bytes : List Byte) (frames : List (List Byte)) (rest' : List BusAnswer) :
    (s.sent [bytes] rest').sent frames rest = s.sent (bytes :: frames) rest := by
  simp [State.sent, Nat.add_assoc, Nat.add_comm 1]

theorem ToRun.current {m : MicroOp} (h : ToRun s (m :: ms)) : s.fr.current s.params = some m := by
  have hhead : ((s.fr.program s.params).drop s.fr.pc)[0]? = some m := by rw [h.left]; rfl
  rwa [List.getElem?_drop] at hhead

theorem ToRun.framerTurn {m : MicroOp} (h : ToRun s (m :: ms)) : framerTurn s = .next (microStep m s) :=
  framerTurn_of_current h.busy h.wkind h.current

/-- What is to come once the framer has gone on to the next micro-operation. -/
theorem ToRun.left_tail {m : MicroOp} (h : ToRun s (m :: ms)) :
    (s.fr.program s.params).drop (s.fr.pc + 1) = ms := by
  rw [← List.tail_drop, h.left, List.tail_cons]

/-! A chain is built from its first turn on: each lemma takes the rest of the chain as what follows from the
micro-operations that are then to come. -/

section Chains

variable {Q : State → Prop} {n : Nat}

/-- A chain goes on from the micro-operation that comes next. -/
theorem ToRun.within {m : MicroOp} (h : ToRun s (m :: ms)) (hQ : Within Q n (microStep m s)) : Within Q (n + 1) s :=
  .turn h.framerTurn (Framer.tick_of_no_wait h.wkind) hQ

/-- A frame to be sent, answered `Ok` (40_bus_transport.md R102). -/
theorem ToRun.send_one {bytes : List Byte} (h : ToRun s (.tx bytes :: ms)) (ho : s.env.oracle = .ok c0 c1 :: rest)
    (next : ToRun (s.sent [bytes] rest) ms → Within Q n (s.sent [bytes] rest)) : Within Q (n + 1) s := by
  refine h.within ?_
  rw [microStep, txStep_eq_sent ho]
  exact next ⟨h.busy, h.wkind, rfl, h.left_tail⟩

/-- Frames to be sent one after another, each answered `Ok`, are sent in as many framer turns. -/
theorem ToRun.send {frames : List (List Byte)} {acks : List BusAnswer} (h : ToRun s (frames.map .tx ++ ms))
    (ho : s.env.oracle = acks ++ rest) (hlen : acks.length = frames.length) (hok : ∀ x ∈ acks, x ≠ .fail)
    (next : ToRun (s.sent frames rest) ms → Within Q n (s.sent frames rest)) : Within Q (n + frames.length) s := by
  induction frames generalizing s acks with
  | nil =>
    obtain rfl : acks = [] := List.eq_nil_of_length_eq_zero hlen
    obtain rfl : s.env.oracle = rest := ho
    rw [State.sent_nil h.attempt] at next
    exact next h
  | cons bytes frames ih =>
    obtain ⟨ack, acks, rfl⟩ := List.exists_cons_of_length_eq_add_one hlen
    obtain ⟨hack, hacks⟩ := List.forall_mem_cons.mp hok
    cases ack with
    | fail => exact absurd rfl hack
    | ok c0 c1 =>
      refine h.send_one ho fun htail => ih htail rfl (Nat.succ.inj hlen) hacks ?_
      rw [State.sent_sent]
      exact next

/-- Two bytes to be received, answered `Ok` (R103). -/
theorem ToRun.receive {k : Latch} (h : ToRun s (.rx k :: ms)) (ho : s.env.oracle = .ok c0 c1 :: rest)
    (next : ToRun (s.received k c0 c1 rest) ms → Within Q n (s.received k c0 c1 rest)) : Within Q (n + 1) s := by
  refine h.within ?_
  rw [microStep, rxStep_eq_received ho]
  refine next ?_
  cases k with
  | v0 => exact ⟨h.busy, h.wkind, rfl, h.left_tail⟩
  | v1 => exact ⟨h.busy, h.wkind, rfl, h.left_tail⟩

theorem ToRun.checkId (h : ToRun s (.idchk :: ms)) (next : ToRun (idchkStep s) ms → Within Q n (idchkStep s)) :
    Within Q (n + 1) s :=
  h.within (next ⟨h.busy, h.wkind, h.attempt, h.left_tail⟩)

end Chains

/-- FIN is the last turn of a chain to the command's end. -/
theorem ToRun.finish {kind : FinKind} (h : ToRun s [.fin kind]) :
    Within (FramerAgrees (finStep kind s)) 1 s := h.within (.reached (.refl _))

/-- A command whose chain ends at a FIN is over under every undisturbed schedule with the chain's framer turns. -/
theorem Within.plays_finish {kind : FinKind} {u : State} {n : Nat} {ts : List Turn}
    (h : Within (FramerAgrees (finStep kind u)) n s) (hw : u.fr.wkind = .none) (hts : Undisturbed ts)
    (hn : n ≤ ts.count .framer) : ∃ s', play ts s = .next s' ∧ FramerAgrees (finStep kind u) s' :=
  h.plays (kept_of_idle rfl hw) hts hn

end ToRun

/-! ### Register reads and writes -/

/-- A command whose program is a register read (R122). -/
theorem registerRead_ends {s : State} {opc : BitVec 4} {a addr c0 c1 b0 b1 : Byte} {d : Half} {rest : List BusAnswer}
    {ts : List Turn} (hprog : prog s.params opc a d = [.tx [addr], .rx .v0, .fin .v16]) (hopc : opc ≠ opINIT)
    (ho : s.env.oracle = .ok c0 c1 :: .ok b0 b1 :: rest) (hts : Undisturbed ts) (hn : 3 ≤ ts.count .framer) :
    ∃ s', play ts (s.withFr (s.fr.start opc a d)) = .next s' ∧
      s'.fr.busy = false ∧ s'.fr.err = .none ∧ s'.fr.result.toNat = b0.toNat * 256 + b1.toNat ∧
      s'.fr.idmm = s.fr.idmm ∧ s'.busHist = s.busHist ++ [.bw [addr] true, .br 2 (some [b0, b1])] ∧
      s'.env.oracle = rest := by
  have hstart : ToRun (s.withFr (s.fr.start opc a d)) [.tx [addr], .rx .v0, .fin .v16] :=
    hprog ▸ toRun_of_start s opc a d
  have hchain := hstart.send_one ho fun hrx => hrx.receive rfl fun hfin => hfin.finish
  obtain ⟨s', hplay, hend⟩ := hchain.plays_finish rfl hts hn
  refine ⟨s', hplay, ?_⟩
  rw [← hend.fr, ← hend.busHist, ← hend.oracle]
  refine ⟨rfl, rfl, ?result, if_neg hopc, List.append_assoc _ _ _, rfl⟩
  case result => exact (zext32_toNat _).trans (be16_toNat b0 b1)

/-- Settles O17: both commands' programs are a register read. -/
theorem registerReadUnderAnySchedule : Obligations.RegisterReadUnderAnySchedule := by
  intro s i addr c0 c1 b0 b1 rest ts hi hb ho hts hn
  have hread : ∃ opc a, exec i s = .next (s.withFr (s.fr.start opc a 0)) ∧
      prog s.params opc a 0 = [.tx [addr], .rx .v0, .fin .v16] ∧ opc ≠ opINIT := by
    obtain rfl | ⟨rfl, rfl⟩ := hi
    · exact ⟨opRDREG, addr, start_of_not_rdres hb (by decide) addr 0, rfl, by decide⟩
    · exact ⟨opRDID, 0, start_of_not_rdres hb (by decide) 0 0, rfl, by decide⟩
  obtain ⟨opc, a, hexec, hprog, hopc⟩ := hread
  exact ⟨_, (registerRead_ends hprog hopc ho hts hn).imp fun _ h => ⟨hexec, h⟩⟩

/-- A frame carries its value's high byte, then the low byte (20_memory.md R62). -/
theorem writeFrame_eq (addr : Byte) (value : Half) :
    writeFrame addr value = [addr, BitVec.ofNat 8 (value.toNat / 256), BitVec.ofNat 8 (value.toNat % 256)] := by
  have hhi : hiByte value = BitVec.ofNat 8 (value.toNat / 256) := by
    rw [hiByte, BitVec.extractLsb', Nat.shiftRight_eq_div_pow]
  have hlo : loByte value = BitVec.ofNat 8 (value.toNat % 256) :=
    BitVec.eq_of_toNat_eq (by simp [loByte])
  rw [writeFrame, hhi, hlo]

/-- Settles O18: both commands' programs are a register write. -/
theorem registerWriteUnderAnySchedule : Obligations.RegisterWriteUnderAnySchedule := by
  intro s i addr value c0 c1 rest ts hi hb ho hts hn
  have hwrite : ∃ opc a d, exec i s = .next (s.withFr (s.fr.start opc a d)) ∧
      prog s.params opc a d = [writeOp addr value, .fin .none] ∧ opc ≠ opINIT := by
    obtain rfl | ⟨rfl, rfl, rfl⟩ := hi
    · exact ⟨opWRREG, addr, value, start_of_not_rdres hb (by decide) addr value, rfl, by decide⟩
    · exact ⟨opDEVRST, 0, 0, start_of_not_rdres hb (by decide) 0 0, rfl, by decide⟩
  obtain ⟨opc, a, d, hexec, hprog, hopc⟩ := hwrite
  have hstart : ToRun (s.withFr (s.fr.start opc a d)) [writeOp addr value, .fin .none] :=
    hprog ▸ toRun_of_start s opc a d
  have hchain := hstart.send_one ho fun hfin => hfin.finish
  obtain ⟨s', hplay, hend⟩ := hchain.plays_finish rfl hts hn
  refine ⟨_, s', hexec, hplay, ?_⟩
  rw [← hend.fr, ← hend.busHist, ← hend.oracle, ← writeFrame_eq]
  exact ⟨rfl, rfl, rfl, if_neg hopc, rfl, rfl, rfl, rfl⟩

/-- Settles O19: RDRES reads the high half into V0 and the low half into V1, and its FIN joins them. -/
theorem channelReadUnderAnySchedule : Obligations.ChannelReadUnderAnySchedule := by
  intro s ch c0 c1 h1 h0 c2 c3 l1 l0 rest ts hch hb ho hts hn
  have hstart : ToRun (s.withFr (s.fr.start opRDRES ch 0)) (rdresProg s.params ch) :=
    prog_rdres hch s.params 0 ▸ toRun_of_start s opRDRES ch 0
  have hchain := hstart.send_one ho fun hhi => hhi.receive rfl fun hlow => hlow.send_one rfl fun hlo =>
    hlo.receive rfl fun hfin => hfin.finish
  obtain ⟨s', hplay, hend⟩ := hchain.plays_finish rfl hts hn
  refine ⟨_, s', exec_rdres_of_channel hb (Nat.lt_succ_of_le hch), hplay, ?_⟩
  rw [← hend.fr, ← hend.busHist, ← hend.oracle, ← resultHighAddr_eq, ← resultLowAddr_eq]
  refine ⟨rfl, rfl, ?result, ?events, rfl⟩
  case result =>
    refine (raw28_toNat (be16 h1 h0) (be16 l1 l0)).trans ?_
    rw [be16_toNat, be16_toNat, Nat.add_assoc]
  case events => simp [finStep, State.received, State.sent, pointerFrame]

/-! ### INIT's settle wait -/

/-- A settle wait has just begun, and FIN is what comes after it. -/
structure AtSettle (w : State) : Prop where
  busy : w.fr.busy = true
  wkind : w.fr.wkind = .settle
  wcnt : w.fr.wcnt = 0
  atEnd : ToRun (w.withFr w.fr.endWait) [.fin .none]

theorem ToRun.waitSettle {s : State} (h : ToRun s [.waitSettle, .fin .none]) : AtSettle (waitSettleStep s) :=
  ⟨h.busy, rfl, rfl, ⟨h.busy, rfl, h.attempt, h.left_tail⟩⟩

/-- `n` ticks into the wait that began at `w`. -/
def State.waited (w : State) (n : Nat) : State := w.withFr { w.fr with wcnt := n }

/-- The command that waited at `w` has ended. -/
abbrev EndedAfter (w : State) : State → Prop := FramerAgrees (finStep .none (w.withFr w.fr.endWait))

/-- The wait that began at `w` is in progress with at most `k` ticks to go, or it is over and at most FIN is left. -/
structure SettleLeft (w : State) (k : Nat) (s : State) : Prop where
  begun : AtSettle w
  stage : (∃ n, n ≤ w.fr.wneed ∧ w.fr.wneed ≤ n + k ∧ FramerAgrees (w.waited n) s) ∨
    Within (EndedAfter w) 1 s

section Settle

variable {s w : State} {k m n : Nat}

theorem AtSettle.kept (h : AtSettle w) : Kept (EndedAfter w) := kept_of_idle rfl h.atEnd.wkind

theorem AtSettle.settleLeft (h : AtSettle w) : SettleLeft w w.fr.wneed w where
  begun := h
  stage := by
    have hstart : w.waited 0 = w := by rw [State.waited, ← h.wcnt]; rfl
    exact .inl ⟨0, Nat.zero_le _, (Nat.zero_add _).ge, hstart ▸ .refl _⟩

/-- The end of a wait does not depend on the count it has reached. -/
theorem endWait_of_settle {f : Framer} (hw : f.wkind = .settle) (n : Nat) :
    Framer.endWait { f with wcnt := n } = f.endWait := by
  simp only [Framer.endWait, hw]

theorem AtSettle.waiting (h : AtSettle w) (n : Nat) : (w.waited n).fr.wkind ≠ .none := by
  rw [State.waited, State.withFr_fr, h.wkind]
  decide

theorem AtSettle.framerTurn_waited (h : AtSettle w) (n : Nat) :
    framerTurn (w.waited n) = .next (waitStep (w.waited n)) := framerTurn_of_wait h.busy (h.waiting n)

/-- A framer turn once the ticks have passed ends the wait, and FIN is left (40_bus_transport.md R105). -/
theorem AtSettle.framerTurn_of_due (h : AtSettle w) (hR : FramerAgrees (w.waited n) s)
    (hdue : w.fr.wneed ≤ n) : ∃ u, framerTurn s = .next u ∧ Within (EndedAfter w) 1 u := by
  have hturn : framerTurn (w.waited n) = .next (w.withFr w.fr.endWait) := by
    rw [h.framerTurn_waited, waitStep_of_due hdue, ← endWait_of_settle h.wkind n]
    rfl
  obtain ⟨u, hu, hRu⟩ := framerTurn_next_of_agrees hR hturn
  exact ⟨u, hu, h.atEnd.finish.agrees h.kept hRu⟩

theorem AtSettle.tick (h : AtSettle w) (hR : FramerAgrees (w.waited n) s) :
    s.fr.tick = { w.fr with wcnt := min (n + 1) w.fr.wneed } := by
  rw [← hR.fr]
  exact Framer.tick_of_wait (h.waiting n)

theorem SettleLeft.mono (h : SettleLeft w m s) (hle : m ≤ n) : SettleLeft w n s where
  begun := h.begun
  stage := h.stage.imp_left fun ⟨i, hi, hm, hR⟩ => ⟨i, hi, hm.trans (Nat.add_le_add_left hle i), hR⟩

theorem settleLeft_countsDown (w : State) : CountsDown .tick (SettleLeft w) where
  agrees h hR := ⟨h.begun, h.stage.imp (fun ⟨n, hn, hk, hR'⟩ => ⟨n, hn, hk, hR'.trans hR⟩)
    (·.agrees h.begun.kept hR)⟩
  framer h := by
    obtain ⟨hw, ⟨n, hn, hk, hR⟩ | hend⟩ := h
    · by_cases hdue : w.fr.wneed ≤ n
      · obtain ⟨u, hu, hend⟩ := hw.framerTurn_of_due hR hdue
        exact ⟨u, hu, hw, .inr hend⟩
      · have hturn : framerTurn (w.waited n) = .next (w.waited n) := by
          rw [hw.framerTurn_waited, waitStep_of_not_due (Nat.lt_of_not_le hdue)]
        obtain ⟨u, hu, hRu⟩ := framerTurn_next_of_agrees hR hturn
        exact ⟨u, hu, hw, .inl ⟨n, hn, hk, hRu⟩⟩
    · obtain ⟨u, hu, hend⟩ := (within_countsDown hw.kept).framer hend
      exact ⟨u, hu, hw, .inr (hend.mono (Nat.sub_le _ _))⟩
  tick {k s} h := by
    obtain ⟨hw, ⟨n, hn, hk, hR⟩ | hend⟩ := h
    · have hcount : [Turn.tick].count .tick = 1 := rfl
      have hk' : w.fr.wneed ≤ min (n + 1) w.fr.wneed + (k - [Turn.tick].count .tick) := by omega
      have hR' : FramerAgrees (w.waited (min (n + 1) w.fr.wneed)) (tickStep s) :=
        ⟨hR.params, (hw.tick hR).symm, hR.busHist, hR.oracle, hR.hostProg⟩
      exact ⟨hw, .inl ⟨_, Nat.min_le_right _ _, hk', hR'⟩⟩
    · exact ⟨hw, .inr ((within_countsDown hw.kept).tick hend)⟩

/-- With no tick to go the wait's end and FIN are left. -/
theorem SettleLeft.within (h : SettleLeft w 0 s) : Within (EndedAfter w) 2 s := by
  obtain ⟨hw, ⟨n, hn, hdue, hR⟩ | hend⟩ := h
  · obtain ⟨u, hu, hend⟩ := hw.framerTurn_of_due hR hdue
    have htick : s.fr.tick = s.fr := by
      rw [hw.tick hR, Nat.min_eq_right (Nat.le_succ_of_le hdue), Nat.le_antisymm hdue hn]
      exact hR.fr
    exact .turn hu htick hend
  · exact hend.mono (by decide)

/-- A chain to a settle wait, the wait's ticks and two more framer turns end the command. -/
theorem Within.plays_settle (h : Within (SettleLeft w w.fr.wneed) n s) {ts1 ts2 ts3 : List Turn}
    (hts1 : Undisturbed ts1) (hts2 : Undisturbed ts2) (hts3 : Undisturbed ts3) (hn : n ≤ ts1.count .framer)
    (hticks : w.fr.wneed ≤ ts2.count .tick) (hend : 2 ≤ ts3.count .framer) :
    ∃ s', play (ts1 ++ ts2 ++ ts3) s = .next s' ∧ EndedAfter w s' := by
  have hcounts := settleLeft_countsDown w
  obtain ⟨s1, hplay1, hs1⟩ := h.plays (hcounts.kept SettleLeft.mono _) hts1 hn
  obtain ⟨s2, hplay2, hs2⟩ := hcounts.plays nofun nofun hs1 hts2
  rw [Nat.sub_eq_zero_of_le hticks] at hs2
  obtain ⟨s3, hplay3, hs3⟩ := hs2.within.plays hs2.begun.kept hts3 hend
  exact ⟨s3, by rw [List.append_assoc, play_append hplay1, play_append hplay2, hplay3], hs3⟩

end Settle

/-! ### INIT -/

/-- INIT's program, its writes as one run of frames (40_bus_transport.md R101). -/
theorem initProg_eq (p : Params) : initProg p = .tx [p.idAddr] :: .rx .v0 :: .idchk ::
    (((initWrites p).map fun w => writeFrame w.1 w.2).map .tx ++ [.waitSettle, .fin .none]) := rfl

/-- Settles O20: 22 framer turns lead to the settle wait (R127, R131), after whose ticks two more end the command. -/
theorem initUnderAnySchedule : Obligations.InitUnderAnySchedule := by
  intro s c0 c1 b0 b1 acks rest ts1 ts2 ts3 hb ho hlen hok hts1 hts2 hts3 hn1 hticks hn3
  have hexec : exec .init s = .next (s.withFr (s.fr.start opINIT 0 0)) :=
    start_of_not_rdres hb (by decide) 0 0
  have hstart : ToRun (s.withFr (s.fr.start opINIT 0 0)) (initProg s.params) := toRun_of_start s opINIT 0 0
  rw [initProg_eq] at hstart
  have hchain := hstart.send_one ho fun hrx => hrx.receive rfl fun hid => hid.checkId fun hwrites =>
    hwrites.send rfl hlen hok fun hsettle => hsettle.within (n := 0) (.reached hsettle.waitSettle.settleLeft)
  obtain ⟨s', hplay, hend⟩ := hchain.plays_settle hts1 hts2 hts3 hn1 hticks hn3
  refine ⟨_, s', hexec, hplay, ?_⟩
  rw [← hend.fr, ← hend.busHist, ← hend.oracle]
  refine ⟨rfl, rfl, ?result, ?idmm, ?events, rfl⟩
  case result => exact (zext32_toNat _).trans (be16_toNat b0 b1)
  case idmm =>
    change (!decide (be16 b0 b1 = s.params.expectedId)) = true ↔ _
    rw [← be16_toNat, Bool.not_eq_true', decide_eq_false_iff_not, Ne, BitVec.toNat_inj]
  case events => simp [finStep, waitSettleStep, idchkStep, State.sent, State.received, Function.comp_def]

end Sys2Proof.Machine
end

section
/-! PROOFS. The two setters of spec/45_actuation_commands.md (R150 to R152), and that nothing but them and RESET changes
what the operator has set (R153). -/

namespace Sys2Proof.Machine

open Sys2Proof.Config

/-! ### SETDUTY -/

theorem clampDuty_cast (pct : Int) : (clampDuty pct : Int) = min (max pct 0) 100 := by
  have hnonneg : 0 ≤ clampInt pct 0 dutyMax := le_min (le_max_right _ _) (by decide)
  exact Int.toNat_of_nonneg hnonneg

/-- Settles O28: the percent the statement asks for is `clampDuty pct`. -/
theorem setDutyClampsAndComputes : Obligations.SetDutyClampsAndComputes := fun _ pct =>
  ⟨clampDuty pct, clampDuty_cast pct, rfl⟩

/-! ### SETHZ -/

theorem Actuation.setHz_zero (p : Params) (g : Actuation) : g.setHz p 0 = g := rfl

theorem Actuation.setHz_of_ne_zero (p : Params) (g : Actuation) {hz : BitVec 24} (hne : hz ≠ 0) : g.setHz p hz =
    { g with togRun := true, togReload := reload p hz.toNat, togCnt := 0, togHz := hz } := if_neg hne

/-- Settles O29: the two branches of `Actuation.setHz`. -/
theorem setHzRestartsTheToggleTimer : Obligations.SetHzRestartsTheToggleTimer := by
  intro s hz
  have hexec : exec (.sethz hz) s = .next (s.withAct (s.act.setHz s.params hz)) := rfl
  rw [hexec]
  constructor
  · rintro rfl
    rw [Actuation.setHz_zero]
    rfl
  · intro hne
    rw [Actuation.setHz_of_ne_zero s.params s.act hne]
    rfl

/-! ### The reload value -/

/-- Strictly inside its range the reload is the quotient itself, which no end of the clamp has touched (R151). -/
theorem reload_eq_div {p : Params} {hz : Nat} (hlow : 1 < reload p hz) (hhigh : reload p hz < p.toggleReloadMax) :
    reload p hz = p.tickHz / (2 * hz) := by
  simp only [reload, clampNat] at hlow hhigh ⊢
  omega

/-- Settles O31: the range is the clamp's (`reload_range`), and inside it the division's own bounds hold. -/
theorem reloadIsTheTruncatedHalfPeriod : Obligations.ReloadIsTheTruncatedHalfPeriod := by
  intro p hz hp hpos
  obtain ⟨hmin, hmax⟩ := reload_range hp hz
  refine ⟨hmin, hmax, fun hlow hhigh => ?_⟩
  rw [reload_eq_div hlow hhigh]
  exact ⟨Nat.div_mul_le_self _ _, (Nat.div_lt_iff_lt_mul (by omega)).mp (Nat.lt_succ_self _)⟩

/-! ### What changes the operator's settings -/

/-- From `g` to `g'` the duty settings, SETDUTY's, are kept. -/
structure Actuation.DutyKept (g g' : Actuation) : Prop where
  duty : g'.duty = g.duty
  ccrShadow : g'.ccrShadow = g.ccrShadow

/-- From `g` to `g'` the frequency settings, SETHZ's, are kept. -/
structure Actuation.HzKept (g g' : Actuation) : Prop where
  togReload : g'.togReload = g.togReload
  togHz : g'.togHz = g.togHz

/-- From `g` to `g'` nothing has changed of what the operator has set (R153). -/
structure Actuation.SettingsKept (g g' : Actuation) : Prop where
  dutyKept : g.DutyKept g'
  hzKept : g.HzKept g'

theorem Actuation.DutyKept.not_changed {g g' : Actuation} {C : Prop} (h : g.DutyKept g')
    (hc : g'.duty ≠ g.duty ∨ g'.ccrShadow ≠ g.ccrShadow) : C :=
  hc.elim (absurd h.duty) (absurd h.ccrShadow)

theorem Actuation.HzKept.not_changed {g g' : Actuation} {C : Prop} (h : g.HzKept g')
    (hc : g'.togReload ≠ g.togReload ∨ g'.togHz ≠ g.togHz) : C :=
  hc.elim (absurd h.togReload) (absurd h.togHz)

theorem Actuation.SettingsKept.refl (g : Actuation) : g.SettingsKept g := ⟨⟨rfl, rfl⟩, ⟨rfl, rfl⟩⟩

theorem Actuation.SettingsKept.trans {g1 g2 g3 : Actuation} (h : g1.SettingsKept g2) (k : g2.SettingsKept g3) :
    g1.SettingsKept g3 where
  dutyKept := ⟨k.dutyKept.duty.trans h.dutyKept.duty, k.dutyKept.ccrShadow.trans h.dutyKept.ccrShadow⟩
  hzKept := ⟨k.hzKept.togReload.trans h.hzKept.togReload, k.hzKept.togHz.trans h.hzKept.togHz⟩

/-- A load reads CCR_SHADOW and leaves it (46_actuation_engine.md R180). -/
theorem Actuation.settingsKept_load (g : Actuation) : g.SettingsKept g.load := by
  unfold Actuation.load
  split
  · exact ⟨⟨rfl, rfl⟩, ⟨rfl, rfl⟩⟩
  · exact .refl g

theorem Actuation.settingsKept_tickToggle (p : Params) (g : Actuation) : g.SettingsKept (g.tickToggle p) := by
  unfold Actuation.tickToggle
  split
  · split
    · exact ⟨⟨rfl, rfl⟩, ⟨rfl, rfl⟩⟩
    · exact ⟨⟨rfl, rfl⟩, ⟨rfl, rfl⟩⟩
  · exact .refl g

theorem Actuation.settingsKept_tickPwm (p : Params) (g : Actuation) : g.SettingsKept (g.tickPwm p) := by
  unfold Actuation.tickPwm
  split
  · have hwrap : g.SettingsKept { g with pwmCnt := 0 } := ⟨⟨rfl, rfl⟩, ⟨rfl, rfl⟩⟩
    exact hwrap.trans (Actuation.settingsKept_load _)
  · exact ⟨⟨rfl, rfl⟩, ⟨rfl, rfl⟩⟩

theorem Actuation.settingsKept_tickDead (p : Params) (g : Actuation) : g.SettingsKept (g.tickDead p) := by
  unfold Actuation.tickDead
  split
  · exact ⟨⟨rfl, rfl⟩, ⟨rfl, rfl⟩⟩
  · exact .refl g

theorem Actuation.settingsKept_tick (p : Params) (g : Actuation) : g.SettingsKept (g.tick p) :=
  ((g.settingsKept_tickToggle p).trans (Actuation.settingsKept_tickPwm p _)).trans
    (Actuation.settingsKept_tickDead p _)

theorem Actuation.settingsKept_driveStep (g : Actuation) : g.SettingsKept g.driveStep := by
  unfold Actuation.driveStep Actuation.drive
  split
  · exact ⟨⟨rfl, rfl⟩, ⟨rfl, rfl⟩⟩
  · exact ⟨⟨rfl, rfl⟩, ⟨rfl, rfl⟩⟩

theorem Actuation.settingsKept_handler (p : Params) (g : Actuation) : g.SettingsKept (g.handler p) := by
  unfold Actuation.handler
  split
  · split
    · exact ⟨⟨rfl, rfl⟩, ⟨rfl, rfl⟩⟩
    · exact .refl g
  · exact ⟨⟨rfl, rfl⟩, ⟨rfl, rfl⟩⟩
  · split
    · exact g.settingsKept_driveStep
    · exact .refl g

/-- SETDUTY leaves the frequency settings alone (R150). -/
theorem Actuation.hzKept_setDuty (p : Params) (g : Actuation) (pct : Int) : g.HzKept (g.setDuty p pct) := ⟨rfl, rfl⟩

/-- SETHZ leaves the duty settings alone (R152). -/
theorem Actuation.dutyKept_setHz (p : Params) (g : Actuation) (hz : BitVec 24) : g.DutyKept (g.setHz p hz) := by
  unfold Actuation.setHz
  split
  · exact ⟨rfl, rfl⟩
  · exact ⟨rfl, rfl⟩

/-- Only SETDUTY changes the duty settings, and only SETHZ of a nonzero frequency changes the frequency settings. -/
theorem exec_settings {i : Instr} {s s' : State} (h : exec i s = .next s') :
    (s.act.DutyKept s'.act ∨ ∃ pct, i = .setduty pct) ∧ (s.act.HzKept s'.act ∨ ∃ hz, i = .sethz hz ∧ hz ≠ 0) := by
  obtain ⟨opc, a, d, he, -⟩ | ⟨pct, hi, he⟩ | ⟨hz, hi, he⟩ := exec_next_cases i s
  all_goals rw [he] at h; cases h
  · exact ⟨.inl ⟨rfl, rfl⟩, .inl ⟨rfl, rfl⟩⟩
  · exact ⟨.inr ⟨pct, hi⟩, .inl (s.act.hzKept_setDuty s.params pct)⟩
  · refine ⟨.inl (s.act.dutyKept_setHz s.params hz), ?_⟩
    by_cases hzero : hz = 0
    · subst hzero; exact .inl ⟨rfl, rfl⟩
    · exact .inr ⟨hz, hi, hzero⟩

/-- The host's turn changes a setting only by the CMD write of its setter. -/
theorem hostTurn_settings {s s' : State} (h : hostTurn s = .next s') :
    (s.act.DutyKept s'.act ∨ ∃ v pct, s.nextHostStep = .wr 0 4 v ∧ decode v = .ok (.setduty pct)) ∧
    (s.act.HzKept s'.act ∨ ∃ v hz, s.nextHostStep = .wr 0 4 v ∧ decode v = .ok (.sethz hz) ∧ hz ≠ 0) := by
  obtain hk | ⟨v, e, -, -, rfl⟩ | ⟨v, i, hv, hd, hx⟩ := hostTurn_cases h
  · rw [hk.act]; exact ⟨.inl ⟨rfl, rfl⟩, .inl ⟨rfl, rfl⟩⟩
  · exact ⟨.inl ⟨rfl, rfl⟩, .inl ⟨rfl, rfl⟩⟩
  · obtain ⟨hduty, hfreq⟩ := exec_settings hx
    constructor
    · exact hduty.imp_right fun ⟨pct, hi⟩ => ⟨v, pct, hv, hi ▸ hd⟩
    · exact hfreq.imp_right fun ⟨hz, hi, hne⟩ => ⟨v, hz, hv, hi ▸ hd, hne⟩

/-- No turn but the host's and RESET's touches the operator's settings. -/
theorem runTurn_settingsKept {t : Turn} {s s' : State} (ht : t ≠ .host) (hr : t ≠ .reset)
    (h : runTurn t s = .next s') : s.act.SettingsKept s'.act := by
  cases t with
  | host => exact absurd rfl ht
  | framer => rw [(framerTurn_frame h).2.1]; exact .refl s.act
  | tick => cases h; exact s.act.settingsKept_tick s.params
  | handler => cases h; exact s.act.settingsKept_handler s.params
  | loader => cases h; exact s.act.settingsKept_load
  | reset => exact absurd rfl hr

/-- Settles O32: the host's turn changes a setting only by its setter (`hostTurn_settings`), and the other turns keep
them all. -/
theorem settersAreOpenLoop : Obligations.SettersAreOpenLoop := by
  intro s s' h hr
  rw [step] at h
  by_cases ht : s.nextTurn = .host
  · rw [ht] at h
    obtain ⟨hduty, hfreq⟩ := hostTurn_settings (s := s.afterTurn) h
    exact ⟨fun hc => ⟨ht, hduty.resolve_left (·.not_changed hc)⟩,
      fun hc => ⟨ht, hfreq.resolve_left (·.not_changed hc)⟩⟩
  · obtain ⟨hduty, hfreq⟩ := runTurn_settingsKept (s := s.afterTurn) ht hr h
    exact ⟨hduty.not_changed, hfreq.not_changed⟩

end Sys2Proof.Machine
end

section
/-! PROOFS. The steps the block takes by itself (spec/46_actuation_engine.md R170, R174 to R176, R180): the tick, the
compare loader's turn and the toggle handler's turn, each as what it writes. -/

namespace Sys2Proof.Machine

open Sys2Proof.Config

/-! ### The tick -/

section Steps

variable (p : Params) (g : Actuation)

/-- DT_TICKS, its ceiling written out (00_scope.md R8). -/
theorem dtTicks_eq : dtTicks p = (2 * p.tickHz + 999) / 1000 := by
  rw [dtTicks, msTicks, ceilDiv, Nat.add_sub_assoc (by decide), deadTimeMs]

theorem Actuation.tickToggle_eq : g.tickToggle p = { g with
    togCnt := if g.togRun = true then (if g.togCnt + 1 ≥ g.togReload + p.reloadOffset then 0 else g.togCnt + 1)
      else g.togCnt
    togglePending := if g.togRun = true ∧ g.togCnt + 1 ≥ g.togReload + p.reloadOffset then true
      else g.togglePending } := by
  unfold Actuation.tickToggle
  by_cases hrun : g.togRun = true
  · by_cases hevent : g.togReload + p.reloadOffset ≤ g.togCnt + 1
    · simp only [hrun, hevent, and_self, if_true]
    · simp only [hrun, hevent, and_false, if_true, if_false]
  · rw [if_neg hrun, if_neg hrun, if_neg fun hc => hrun hc.1]

theorem Actuation.load_eq : g.load =
    { g with ccrActive := if g.ccrUpd = true then g.ccrShadow else g.ccrActive, ccrUpd := false } := by
  rcases g with ⟨_, _, _, _ | _, _⟩
  · rfl
  · rfl

theorem Actuation.tickPwm_eq : g.tickPwm p = { g with
    pwmCnt := if g.pwmCnt = p.pwmPeriod then 0 else g.pwmCnt + 1
    ccrActive := if g.pwmCnt = p.pwmPeriod ∧ g.ccrUpd = true then g.ccrShadow else g.ccrActive
    ccrUpd := if g.pwmCnt = p.pwmPeriod then false else g.ccrUpd } := by
  unfold Actuation.tickPwm
  by_cases hwrap : g.pwmCnt = p.pwmPeriod
  · simp only [hwrap, if_true, true_and, Actuation.load_eq]
  · simp only [hwrap, if_false, false_and]

theorem Actuation.tickDead_eq : g.tickDead p = { g with
    hbDt := if g.hbPhase = .deadtime then min (g.hbDt + 1) (dtTicks p) else g.hbDt } := by
  unfold Actuation.tickDead
  split
  · rfl
  · rfl

/-- The actuation group's part of a tick, whole (R170): the three timers write different elements, and none reads what
another writes. -/
theorem Actuation.tick_eq : g.tick p = { g with
    togCnt := if g.togRun = true then (if g.togCnt + 1 ≥ g.togReload + p.reloadOffset then 0 else g.togCnt + 1)
      else g.togCnt
    togglePending := if g.togRun = true ∧ g.togCnt + 1 ≥ g.togReload + p.reloadOffset then true
      else g.togglePending
    pwmCnt := if g.pwmCnt = p.pwmPeriod then 0 else g.pwmCnt + 1
    ccrActive := if g.pwmCnt = p.pwmPeriod ∧ g.ccrUpd = true then g.ccrShadow else g.ccrActive
    ccrUpd := if g.pwmCnt = p.pwmPeriod then false else g.ccrUpd
    hbDt := if g.hbPhase = .deadtime then min (g.hbDt + 1) (dtTicks p) else g.hbDt } := by
  rw [Actuation.tick, Actuation.tickToggle_eq, Actuation.tickPwm_eq, Actuation.tickDead_eq]

end Steps

/-- The framer's part of a tick (R170). -/
theorem Framer.tick_wcnt_eq (f : Framer) : f.tick =
    { f with wcnt := if f.wkind ≠ .none then min (f.wcnt + 1) f.wneed else f.wcnt } := by
  by_cases hw : f.wkind = .none
  · rw [Framer.tick_of_no_wait hw, if_neg (not_not.mpr hw)]
  · rw [Framer.tick_of_wait hw, if_pos hw]

/-- Settles O33: the tick of each group, written out (`Actuation.tick_eq`, `Framer.tick_wcnt_eq`). -/
theorem tickMovesEveryTimer : Obligations.TickMovesEveryTimer := by
  intro s
  have htick : runTurn .tick s = .next ((s.withFr s.fr.tick).withAct (s.act.tick s.params)) := rfl
  rw [htick, Actuation.tick_eq, Framer.tick_wcnt_eq, dtTicks_eq]
  rfl

/-! ### The compare loader -/

theorem Actuation.load_of_waiting {g : Actuation} (h : g.ccrUpd = true) :
    g.load = { g with ccrActive := g.ccrShadow, ccrUpd := false } := if_pos h

theorem Actuation.load_of_not_waiting {g : Actuation} (h : g.ccrUpd = false) : g.load = g :=
  if_neg (Bool.eq_false_iff.mp h)

/-- Settles O36: the two branches of `Actuation.load`. -/
theorem compareLoaderLoadsAWaitingValue : Obligations.CompareLoaderLoadsAWaitingValue := by
  intro s
  have hturn : runTurn .loader s = .next (s.withAct s.act.load) := rfl
  rw [hturn]
  constructor
  · intro hupd
    rw [Actuation.load_of_waiting hupd]
    rfl
  · intro hupd
    rw [Actuation.load_of_not_waiting hupd]
    rfl

/-! ### The toggle handler -/

section Handler

variable {p : Params} {g : Actuation}

theorem Actuation.handler_of_event (hk : g.hbPhase = .idle) (he : g.togglePending = true) :
    g.handler p = g.claimStep := by
  rw [Actuation.handler, hk]
  exact if_pos he

theorem Actuation.handler_of_no_event (hk : g.hbPhase = .idle) (he : g.togglePending = false) : g.handler p = g := by
  rw [Actuation.handler, hk]
  exact if_neg (Bool.eq_false_iff.mp he)

theorem Actuation.handler_of_claim (hk : g.hbPhase = .claim) : g.handler p = g.consumeStep := by
  rw [Actuation.handler, hk]

theorem Actuation.handler_of_due (hk : g.hbPhase = .deadtime) (hdt : dtTicks p ≤ g.hbDt) :
    g.handler p = g.driveStep := by
  rw [Actuation.handler, hk]
  exact if_pos hdt

theorem Actuation.handler_of_not_due (hk : g.hbPhase = .deadtime) (hdt : g.hbDt < dtTicks p) : g.handler p = g := by
  rw [Actuation.handler, hk]
  exact if_neg (Nat.not_le.mpr hdt)

variable (p g) in
/-- What the handler's turn can do: a claim, a consume, a drive, or nothing. -/
theorem Actuation.handler_cases :
    (g.hbPhase = .idle ∧ g.togglePending = true ∧ g.handler p = g.claimStep) ∨
    (g.hbPhase = .claim ∧ g.handler p = g.consumeStep) ∨
    (g.hbPhase = .deadtime ∧ dtTicks p ≤ g.hbDt ∧ g.handler p = g.driveStep) ∨
    g.handler p = g := by
  cases hk : g.hbPhase with
  | idle =>
    cases he : g.togglePending with
    | true => exact .inl ⟨rfl, rfl, handler_of_event hk he⟩
    | false => exact .inr (.inr (.inr (handler_of_no_event hk he)))
  | claim => exact .inr (.inl ⟨rfl, handler_of_claim hk⟩)
  | deadtime =>
    by_cases hdt : dtTicks p ≤ g.hbDt
    · exact .inr (.inr (.inl ⟨rfl, hdt, handler_of_due hk hdt⟩))
    · exact .inr (.inr (.inr (handler_of_not_due hk (Nat.not_le.mp hdt))))

end Handler

/-- The target of a guarded toggle is B-forward from A-forward, and A-forward else (10_state.md R34). -/
theorem nextTarget_eq (a b : Bool) : nextTarget a b = if a = true ∧ b = false then .bFwd else .aFwd := by
  cases a with
  | true => cases b <;> rfl
  | false => cases b <;> rfl

theorem nextTarget_of_dirOf (a b : Bool) :
    nextTarget a b = if dirOf a b = some .aFwd then .bFwd else .aFwd := by
  unfold nextTarget
  cases dirOf a b with
  | none => rfl
  | some t => cases t <;> rfl

/-- The drive step raises the output of HB_TARGET's direction and lowers the other (R176). -/
theorem Actuation.driveStep_eq (g : Actuation) : g.driveStep = { g with
    outA := decide (g.hbTarget = .aFwd), outB := decide (g.hbTarget = .bFwd), hbPhase := .idle } := by
  unfold Actuation.driveStep Actuation.drive
  cases g.hbTarget with
  | aFwd => rfl
  | bFwd => rfl

/-- Settles O37: one equation of `Actuation.handler` for each clause. -/
theorem handlerClaimsConsumesAndDrives : Obligations.HandlerClaimsConsumesAndDrives := by
  intro s
  have hturn : runTurn .handler s = .next (s.withAct (s.act.handler s.params)) := rfl
  rw [hturn, ← dtTicks_eq]
  refine ⟨fun hk he => ?claim, fun hk he => ?noEvent, fun hk => ?consume, fun hk hdt => ?drive, fun hk hdt => ?wait⟩
  case claim => rw [Actuation.handler_of_event hk he]; rfl
  case noEvent => rw [Actuation.handler_of_no_event hk he]; rfl
  case consume => rw [Actuation.handler_of_claim hk, ← nextTarget_eq]; rfl
  case drive => rw [Actuation.handler_of_due hk hdt, Actuation.driveStep_eq]; rfl
  case wait => rw [Actuation.handler_of_not_due hk hdt]; rfl

/-- A tick at which the running toggle timer wraps leaves TOGGLE_PENDING set (R171). -/
theorem Actuation.tick_togglePending_of_event {p : Params} {g : Actuation} (hrun : g.togRun = true)
    (hevent : g.togReload + p.reloadOffset ≤ g.togCnt + 1) : (g.tick p).togglePending = true := by
  rw [Actuation.tick_eq]
  exact if_pos ⟨hrun, hevent⟩

theorem Actuation.tick_hbPhase (p : Params) (g : Actuation) : (g.tick p).hbPhase = g.hbPhase := by
  rw [Actuation.tick_eq]

/-- Settles O38: a consume clears whatever stands in TOGGLE_PENDING, and leaves the toggle timer at its event. -/
theorem eventInTheClaimWindowIsLost : Obligations.EventInTheClaimWindowIsLost := by
  intro s hk hrun hevent
  constructor
  · have hclaim : (s.act.tick s.params).hbPhase = .claim := (Actuation.tick_hbPhase _ _).trans hk
    have hact : (s.act.tick s.params).handler s.params = (s.act.tick s.params).consumeStep :=
      Actuation.handler_of_claim hclaim
    exact ⟨handlerStep (tickStep s.counted).counted, rfl, congrArg Actuation.togglePending hact,
      congrArg Actuation.hbPhase hact⟩
  · have hact : (s.act.handler s.params).tick s.params = s.act.consumeStep.tick s.params := by
      rw [Actuation.handler_of_claim hk]
    exact ⟨tickStep (handlerStep s.counted).counted, rfl,
      (congrArg Actuation.togglePending hact).trans (Actuation.tick_togglePending_of_event hrun hevent),
      (congrArg Actuation.hbPhase hact).trans (Actuation.tick_hbPhase _ _)⟩

end Sys2Proof.Machine
end

section
/-! PROOFS. The toggle timer and the PWM timer under every undisturbed schedule (spec/46_actuation_engine.md R171, R180
to R182): what they show depends on the number of ticks played, and on no other turn. -/

namespace Sys2Proof.Machine

open Sys2Proof.Config

/-! ### The compare value -/

/-- Settles O30: below the period the compare value is the truncated quotient, and at the period the percent of a cycle
is no more than a whole one. -/
theorem compareValueIsWithinOneTick : Obligations.CompareValueIsWithinOneTick := by
  intro p pc hpc
  have hwhole : pc * (p.pwmPeriod + 1) ≤ 100 * (p.pwmPeriod + 1) := Nat.mul_le_mul_right _ hpc
  refine ⟨compareValue_le p pc, ?_⟩
  rw [compareValue]
  omega

/-! ### Counting ticks -/

theorem runTurn_params {t : Turn} {s s' : State} (h : runTurn t s = .next s') : s'.params = s.params := by
  cases t with
  | host =>
    obtain hk | ⟨v, e, -, -, rfl⟩ | ⟨v, i, -, -, hx⟩ := hostTurn_cases h
    · exact hk.params
    · rfl
    · exact (exec_frame hx).1
  | framer => exact (framerTurn_frame h).1
  | tick => cases h; rfl
  | handler => cases h; rfl
  | loader => cases h; rfl
  | reset => cases h; rfl

/-- A family of properties of the actuation group in which every turn of a schedule counts its ticks, the schedule
counts. -/
theorem play_counts_ticks {allowed : Turn → Prop} {p : Params} {R : Nat → Actuation → Prop}
    (hturn : ∀ {t n u u'}, allowed t → u.params = p → R n u.act → runTurn t u = .next u' →
      R (n + [t].count .tick) u'.act)
    {ts : List Turn} {n : Nat} {s s' : State} (hp : s.params = p) (h : R n s.act) (hts : ∀ t ∈ ts, allowed t)
    (hplay : play ts s = .next s') : R (n + ts.count .tick) s'.act := by
  induction ts generalizing n s with
  | nil => cases hplay; exact h
  | cons t ts ih =>
    obtain ⟨u, hu, hrest⟩ := play_cons_next hplay
    obtain ⟨ht, hts⟩ := List.forall_mem_cons.mp hts
    have hcount : (t :: ts).count .tick = [t].count .tick + ts.count .tick := List.count_append (l₁ := [t])
    rw [hcount, ← Nat.add_assoc]
    exact ih ((runTurn_params hu).trans hp) (hturn (u := s.counted) ht hp h hu) hts hrest

theorem play_undisturbed_params {s s' : State} {ts : List Turn} (hts : Undisturbed ts) (hplay : play ts s = .next s') :
    s'.params = s.params :=
  play_undisturbed_keeps (I := fun u => u.params = s.params) (fun _ h => h)
    (fun _ _ _ _ _ h ht => (runTurn_params ht).trans h) rfl hts hplay

theorem Undisturbed.of_mem {ts : List Turn} (h : Undisturbed ts) (t : Turn) (ht : t ∈ ts) :
    t ≠ .host ∧ t ≠ .reset :=
  ⟨fun he => h.1 (he ▸ ht), fun he => h.2 (he ▸ ht)⟩

/-- A family of properties of the actuation group that counts ticks, and that the handler and the loader keep. -/
structure Actuation.CountsTicks (p : Params) (R : Nat → Actuation → Prop) : Prop where
  tick : ∀ {n g}, R n g → R (n + 1) (g.tick p)
  handler : ∀ {n g}, R n g → R n (g.handler p)
  load : ∀ {n g}, R n g → R n g.load

/-- An undisturbed schedule counts its ticks. -/
theorem Actuation.CountsTicks.plays {R : Nat → Actuation → Prop} {s s' : State} {ts : List Turn}
    (hR : Actuation.CountsTicks s.params R) (h : R 0 s.act) (hts : Undisturbed ts) (hplay : play ts s = .next s') :
    R (ts.count .tick) s'.act := by
  rw [← Nat.zero_add (ts.count _)]
  refine play_counts_ticks (fun {t n u u'} ⟨hhost, hreset⟩ hp h ht => ?_) rfl h hts.of_mem hplay
  have hR : Actuation.CountsTicks u.params R := hp ▸ hR
  cases t with
  | host => exact absurd rfl hhost
  | framer => rw [(framerTurn_frame ht).2.1]; exact h
  | tick => cases ht; exact hR.tick h
  | handler => cases ht; exact hR.handler h
  | loader => cases ht; exact hR.load h
  | reset => exact absurd rfl hreset

/-- From `g` to `g'` the toggle timer and the PWM timer are kept. -/
structure Actuation.TimersKept (g g' : Actuation) : Prop where
  togRun : g'.togRun = g.togRun
  togReload : g'.togReload = g.togReload
  togCnt : g'.togCnt = g.togCnt
  pwmCnt : g'.pwmCnt = g.pwmCnt
  ccrActive : g'.ccrActive = g.ccrActive
  ccrShadow : g'.ccrShadow = g.ccrShadow
  ccrUpd : g'.ccrUpd = g.ccrUpd

/-- The handler never touches a timer (R174 to R176). -/
theorem Actuation.timersKept_handler (p : Params) (g : Actuation) : g.TimersKept (g.handler p) := by
  obtain ⟨-, -, he⟩ | ⟨-, he⟩ | ⟨-, -, he⟩ | he := g.handler_cases p
  · rw [he]; exact ⟨rfl, rfl, rfl, rfl, rfl, rfl, rfl⟩
  · rw [he]; exact ⟨rfl, rfl, rfl, rfl, rfl, rfl, rfl⟩
  · rw [he, Actuation.driveStep_eq]; exact ⟨rfl, rfl, rfl, rfl, rfl, rfl, rfl⟩
  · rw [he]; exact ⟨rfl, rfl, rfl, rfl, rfl, rfl, rfl⟩

/-! ### The toggle timer -/

/-- A counter modulo `h` wraps with the tick that fills `h`. -/
theorem succ_mod_eq_ite {h : Nat} (hpos : 0 < h) (m : Nat) :
    (m + 1) % h = if m % h + 1 ≥ h then 0 else m % h + 1 := by
  have hlt : m % h < h := Nat.mod_lt m hpos
  rw [← Nat.mod_add_mod]
  split
  · have hfull : m % h + 1 = h := by omega
    rw [hfull, Nat.mod_self]
  · exact Nat.mod_eq_of_lt (by omega)

/-- From `g0` to `g` the toggle timer has run on for `n` ticks with the half-period `h`. -/
structure Actuation.ToggleCounted (h : Nat) (g0 : Actuation) (n : Nat) (g : Actuation) : Prop where
  togRun : g.togRun = true
  togReload : g.togReload = g0.togReload
  togCnt : g.togCnt = (g0.togCnt + n) % h
  noEvent : g0.togCnt + n < h → g0.togglePending = false → g.togglePending = false

theorem Actuation.toggleCounted_countsTicks {p : Params} {g0 : Actuation} {h : Nat} (hpos : 0 < h)
    (hh : h = g0.togReload + p.reloadOffset) : Actuation.CountsTicks p (g0.ToggleCounted h) where
  tick {n g} hg := by
    have hperiod : g.togReload + p.reloadOffset = h := by rw [hg.togReload, hh]
    rw [Actuation.tick_eq]
    refine ⟨hg.togRun, hg.togReload, ?count, fun hlt hclear => ?noEvent⟩
    case count =>
      change (if g.togRun = true then _ else _) = _
      rw [if_pos hg.togRun, hperiod, hg.togCnt, ← Nat.add_assoc, succ_mod_eq_ite hpos]
    case noEvent =>
      have hcnt : g.togCnt = g0.togCnt + n := hg.togCnt.trans (Nat.mod_eq_of_lt (by omega))
      have hnoWrap : ¬(g.togRun = true ∧ g.togCnt + 1 ≥ g.togReload + p.reloadOffset) := by omega
      exact (if_neg hnoWrap).trans (hg.noEvent (by omega) hclear)
  handler {n g} hg := by
    have hk := g.timersKept_handler p
    refine ⟨hk.togRun.trans hg.togRun, hk.togReload.trans hg.togReload, hk.togCnt.trans hg.togCnt,
      fun hlt hclear => ?_⟩
    obtain ⟨-, hc⟩ | hkept := g.handler_togglePending p
    · exact hc
    · exact hkept.trans (hg.noEvent hlt hclear)
  load hg := by
    rw [Actuation.load_eq]
    exact ⟨hg.togRun, hg.togReload, hg.togCnt, hg.noEvent⟩

/-- Settles O34: the timer counts the schedule's ticks (`Actuation.toggleCounted_countsTicks`), and the tick that fills
a half-period is an event. -/
theorem toggleEventEveryHalfPeriod : Obligations.ToggleEventEveryHalfPeriod := by
  intro s s' ts hinv hrun hts hplay
  have hlt : s.act.togCnt < s.act.togReload + s.params.reloadOffset := hinv.act.toggleRange hrun
  have hpos : 0 < s.act.togReload + s.params.reloadOffset := Nat.zero_lt_of_lt hlt
  have hend := (Actuation.toggleCounted_countsTicks hpos rfl).plays
    ⟨hrun, rfl, (Nat.mod_eq_of_lt hlt).symm, fun _ hclear => hclear⟩ hts hplay
  refine ⟨hend.togRun, hend.togReload, hend.togCnt, hend.noEvent, fun s'' htick hfull => ?_⟩
  cases htick
  rw [succ_mod_eq_ite hpos, ← hend.togCnt] at hfull
  have hevent : s'.act.togReload + s'.params.reloadOffset ≤ s'.act.togCnt + 1 := by
    rw [hend.togReload, play_undisturbed_params hts hplay]
    split at hfull
    · assumption
    · cases hfull
  exact Actuation.tick_togglePending_of_event hend.togRun hevent

/-! ### A waiting compare value -/

/-- Since `g0`, which has a compare value waiting, `n` ticks have passed and it waits still; or it is in effect. -/
def Actuation.LoadsWithin (p : Params) (g0 : Actuation) (n : Nat) (g : Actuation) : Prop :=
  (g.ccrUpd = true ∧ g.pwmCnt = g0.pwmCnt + n ∧ g.pwmCnt ≤ p.pwmPeriod ∧ g.ccrActive = g0.ccrActive ∧
    g.ccrShadow = g0.ccrShadow) ∨
  (g.ccrUpd = false ∧ g.ccrActive = g0.ccrShadow)

/-- The value waits until the loader's turn or the PWM timer's wrap, whichever is first (R180, R181). -/
theorem Actuation.loadsWithin_countsTicks (p : Params) (g0 : Actuation) :
    Actuation.CountsTicks p (g0.LoadsWithin p) where
  tick {n g} hg := by
    rw [Actuation.tick_eq]
    obtain ⟨hupd, hcnt, hle, hactive, hshadow⟩ | ⟨hupd, hactive⟩ := hg
    · by_cases hwrap : g.pwmCnt = p.pwmPeriod
      · exact .inr ⟨if_pos hwrap, (if_pos ⟨hwrap, hupd⟩).trans hshadow⟩
      · have hnext : g.pwmCnt + 1 ≤ p.pwmPeriod := Nat.lt_of_le_of_ne hle hwrap
        simp only [Actuation.LoadsWithin, hwrap, false_and, if_false]
        exact .inl ⟨hupd, by rw [hcnt, Nat.add_assoc], hnext, hactive, hshadow⟩
    · simp only [Actuation.LoadsWithin, hupd, ite_self, Bool.false_eq_true, and_false, if_false, hactive, and_self,
        or_true]
  handler {n g} hg := by
    have hk := g.timersKept_handler p
    rw [Actuation.LoadsWithin, hk.ccrUpd, hk.pwmCnt, hk.ccrActive, hk.ccrShadow]
    exact hg
  load {n g} hg := by
    obtain ⟨hupd, -, -, -, hshadow⟩ | ⟨hupd, hactive⟩ := hg
    · rw [Actuation.load_of_waiting hupd]
      exact .inr ⟨rfl, hshadow⟩
    · rw [Actuation.load_of_not_waiting hupd]
      exact .inr ⟨hupd, hactive⟩

/-- Settles O35: a value that still waits has seen no more ticks than are left of the PWM cycle. -/
theorem newDutyTakesEffectWithinOneCycle : Obligations.NewDutyTakesEffectWithinOneCycle := by
  intro s s' ts hle hupd hts hplay
  obtain ⟨hwaits, hcnt, hle', hactive, -⟩ | ⟨hloaded, hactive⟩ :=
    (s.act.loadsWithin_countsTicks s.params).plays (.inl ⟨hupd, rfl, hle, rfl, rfl⟩) hts hplay
  · exact ⟨fun hticks => absurd hticks (by omega), fun h0 => (nomatch hwaits.symm.trans h0), fun _ => hactive⟩
  · exact ⟨fun _ => hloaded, fun _ => hactive, fun h1 => (nomatch hloaded.symm.trans h1)⟩

end Sys2Proof.Machine
end

section
/-! PROOFS. The guarded toggle (spec/46_actuation_engine.md R174 to R176, R179): the outputs are the handler's and
RESET's alone, and every other turn at most counts the dead time on. -/

namespace Sys2Proof.Machine

open Sys2Proof.Config

/-! ### The turns beside the handler's -/

/-- From `g` to `g'` the handler has not moved, and a dead time has counted `n` ticks. -/
structure Actuation.DeadTimeCounted (p : Params) (g : Actuation) (n : Nat) (g' : Actuation) : Prop where
  outA : g'.outA = g.outA
  outB : g'.outB = g.outB
  hbPhase : g'.hbPhase = g.hbPhase
  hbTarget : g'.hbTarget = g.hbTarget
  hbDt : g.hbPhase = .deadtime → g.hbDt ≤ dtTicks p → g'.hbDt = min (g.hbDt + n) (dtTicks p)

section DeadTime

variable {p : Params} {g g1 g2 : Actuation} {m n : Nat}

/-- A dead time that nothing touches counts nothing. -/
theorem Actuation.DeadTimeCounted.of_kept (ha : g1.outA = g.outA) (hb : g1.outB = g.outB)
    (hk : g1.hbPhase = g.hbPhase) (ht : g1.hbTarget = g.hbTarget) (hdt : g1.hbDt = g.hbDt) :
    g.DeadTimeCounted p 0 g1 :=
  ⟨ha, hb, hk, ht, fun _ hle => hdt.trans (Nat.min_eq_left hle).symm⟩

theorem Actuation.DeadTimeCounted.refl (p : Params) (g : Actuation) : g.DeadTimeCounted p 0 g :=
  .of_kept rfl rfl rfl rfl rfl

theorem Actuation.DeadTimeCounted.trans (h : g.DeadTimeCounted p m g1) (k : g1.DeadTimeCounted p n g2) :
    g.DeadTimeCounted p (m + n) g2 where
  outA := k.outA.trans h.outA
  outB := k.outB.trans h.outB
  hbPhase := k.hbPhase.trans h.hbPhase
  hbTarget := k.hbTarget.trans h.hbTarget
  hbDt hdead hle := by
    have hdt := h.hbDt hdead hle
    have hdt' := k.hbDt (h.hbPhase.trans hdead) (by omega)
    omega

theorem Actuation.deadTimeCounted_tick (p : Params) (g : Actuation) : g.DeadTimeCounted p 1 (g.tick p) := by
  rw [Actuation.tick_eq]
  exact ⟨rfl, rfl, rfl, rfl, fun hdead _ => if_pos hdead⟩

theorem Actuation.deadTimeCounted_load (p : Params) (g : Actuation) : g.DeadTimeCounted p 0 g.load := by
  rw [Actuation.load_eq]
  exact .of_kept rfl rfl rfl rfl rfl

theorem Actuation.deadTimeCounted_setHz (p : Params) (g : Actuation) (hz : BitVec 24) :
    g.DeadTimeCounted p 0 (g.setHz p hz) := by
  unfold Actuation.setHz
  split
  · exact .refl p g
  · exact .of_kept rfl rfl rfl rfl rfl

end DeadTime

/-- No host access reaches the handler's part of the actuation group (45_actuation_commands.md R150, R152). -/
theorem hostTurn_deadTimeCounted {s s' : State} (h : hostTurn s = .next s') :
    s.act.DeadTimeCounted s.params 0 s'.act := by
  obtain hk | ⟨v, e, -, -, rfl⟩ | ⟨v, i, -, -, hx⟩ := hostTurn_cases h
  · rw [hk.act]; exact .refl _ _
  · exact .refl _ _
  · obtain ⟨opc, a, d, he, -⟩ | ⟨pct, -, he⟩ | ⟨hz, -, he⟩ := exec_next_cases i s.afterHostStep
    all_goals rw [he] at hx; cases hx
    · exact .refl _ _
    · exact .of_kept rfl rfl rfl rfl rfl
    · exact s.act.deadTimeCounted_setHz s.params hz

/-- Only the handler's turn and RESET do more to the outputs, the phase and the target than count the dead time. -/
theorem runTurn_deadTimeCounted {t : Turn} {s s' : State} (hhandler : t ≠ .handler) (hreset : t ≠ .reset)
    (h : runTurn t s = .next s') : s.act.DeadTimeCounted s.params ([t].count .tick) s'.act := by
  cases t with
  | host => exact hostTurn_deadTimeCounted h
  | framer => rw [(framerTurn_frame h).2.1]; exact .refl _ _
  | tick => cases h; exact s.act.deadTimeCounted_tick s.params
  | handler => exact absurd rfl hhandler
  | loader => cases h; exact s.act.deadTimeCounted_load s.params
  | reset => exact absurd rfl hreset

/-! ### The outputs -/

/-- The outputs after a drive step are HB_TARGET's direction (10_state.md R34). -/
theorem Actuation.dirOf_driveStep (g : Actuation) : dirOf g.driveStep.outA g.driveStep.outB = some g.hbTarget := by
  rw [Actuation.driveStep_eq]
  cases g.hbTarget with
  | aFwd => rfl
  | bFwd => rfl

/-- What the handler does to the outputs: it keeps them, or consumes an event and lowers both, or drives HB_TARGET from
a dead time that is over. -/
theorem Actuation.handler_outputs (p : Params) (g : Actuation) :
    ((g.handler p).outA = g.outA ∧ (g.handler p).outB = g.outB) ∨
    (g.hbPhase = .claim ∧ (g.handler p).outA = false ∧ (g.handler p).outB = false) ∨
    (g.hbPhase = .deadtime ∧ dtTicks p ≤ g.hbDt ∧
      dirOf (g.handler p).outA (g.handler p).outB = some g.hbTarget) := by
  obtain ⟨-, -, he⟩ | ⟨hk, he⟩ | ⟨hk, hdt, he⟩ | he := g.handler_cases p
  · rw [he]; exact .inl ⟨rfl, rfl⟩
  · rw [he]; exact .inr (.inl ⟨hk, rfl, rfl⟩)
  · rw [he]; exact .inr (.inr ⟨hk, hdt, g.dirOf_driveStep⟩)
  · rw [he]; exact .inl ⟨rfl, rfl⟩

/-- Settles O41: the handler's turn changes the outputs only so (`Actuation.handler_outputs`), and no other turn but
RESET's changes them (`runTurn_deadTimeCounted`). -/
theorem outputsChangeOnlyThroughTheHandler : Obligations.OutputsChangeOnlyThroughTheHandler := by
  intro s s' h hne
  rw [step] at h
  by_cases hreset : s.nextTurn = .reset
  · exact .inl hreset
  · by_cases hhandler : s.nextTurn = .handler
    · rw [hhandler] at h
      cases h
      obtain ⟨ha, hb⟩ | ⟨hk, ha, hb⟩ | ⟨hk, hdt, hdir⟩ := s.act.handler_outputs s.params
      · exact absurd (Prod.ext ha hb) hne
      · exact .inr (.inl ⟨hhandler, hk, ha, hb⟩)
      · exact .inr (.inr ⟨hhandler, hk, hdt, hdir⟩)
    · have hkept := runTurn_deadTimeCounted (s := s.afterTurn) hhandler hreset h
      exact absurd (Prod.ext hkept.outA hkept.outB) hne

/-! ### The dead time -/

/-- Since the start of the dead time of `g0` its ticks have all come, or it runs still, with the ticks so far
counted. -/
def Actuation.DeadTimeHeld (p : Params) (g0 : Actuation) (n : Nat) (g : Actuation) : Prop :=
  dtTicks p ≤ n ∨ g0.DeadTimeCounted p n g

/-- The handler leaves a dead time alone until its ticks have come (R176). -/
theorem Actuation.deadTimeHeld_handler {p : Params} {g0 g : Actuation} {n : Nat} (hdead : g0.hbPhase = .deadtime)
    (hzero : g0.hbDt = 0) (h : g0.DeadTimeCounted p n g) : g0.DeadTimeHeld p n (g.handler p) := by
  have hdt : g.hbDt = min (g0.hbDt + n) (dtTicks p) := h.hbDt hdead (hzero ▸ Nat.zero_le _)
  by_cases hdue : dtTicks p ≤ g.hbDt
  · exact .inl (by omega)
  · rw [Actuation.handler_of_not_due (h.hbPhase.trans hdead) (Nat.not_le.mp hdue)]
    exact .inr h

theorem runTurn_deadTimeHeld {t : Turn} {g0 : Actuation} {n : Nat} {u u' : State} (hdead : g0.hbPhase = .deadtime)
    (hzero : g0.hbDt = 0) (hreset : t ≠ .reset) (h : g0.DeadTimeHeld u.params n u.act) (ht : runTurn t u = .next u') :
    g0.DeadTimeHeld u.params (n + [t].count .tick) u'.act := by
  obtain hdone | hruns := h
  · exact .inl (Nat.le_add_right_of_le hdone)
  · by_cases hhandler : t = .handler
    · subst hhandler
      cases ht
      exact Actuation.deadTimeHeld_handler hdead hzero hruns
    · exact .inr (hruns.trans (runTurn_deadTimeCounted hhandler hreset ht))

/-- Settles O40: while the dead time is held the outputs are those it began with, both low. -/
theorem deadTimeLastsItsTicks : Obligations.DeadTimeLastsItsTicks := by
  intro s s' ts hdead hzero ha hb hts hplay hhigh
  have hheld : s.act.DeadTimeHeld s.params (0 + ts.count .tick) s'.act :=
    play_counts_ticks (allowed := (· ≠ .reset))
      (fun hreset hp h ht => hp ▸ runTurn_deadTimeHeld hdead hzero hreset (hp ▸ h) ht) rfl (.inr (.refl _ _))
      (fun t ht he => hts (he ▸ ht)) hplay
  rw [Nat.zero_add] at hheld
  obtain hdone | hruns := hheld
  · exact hdone
  · rw [hruns.outA, hruns.outB, ha, hb] at hhigh
    simp at hhigh

/-! ### One guarded toggle -/

/-- An undisturbed schedule is played to its end from every state with the invariant: only a framer outside its program
stops (10_state.md R25). -/
theorem play_undisturbed_next {s : State} {ts : List Turn} (hinv : s.Inv) (hts : Undisturbed ts) :
    ∃ s', play ts s = .next s' := by
  induction ts generalizing s with
  | nil => exact ⟨s, play_nil s⟩
  | cons t ts ih =>
    obtain ⟨hhost, hreset, hrest⟩ := undisturbed_cons.mp hts
    have hcounted : s.counted.Inv := hinv.withEnv _
    have hturn : ∃ u, runTurn t s.counted = .next u := by
      cases t with
      | host => exact absurd rfl hhost
      | framer => exact framerTurn_next hcounted.fr
      | tick => exact ⟨_, rfl⟩
      | handler => exact ⟨_, rfl⟩
      | loader => exact ⟨_, rfl⟩
      | reset => exact absurd rfl hreset
    obtain ⟨u, hu⟩ := hturn
    rw [play_cons_of_next hu]
    exact ih (runTurn_keeps_inv hcounted hu) hrest

theorem play_undisturbed_keeps_inv {s s' : State} {ts : List Turn} (hinv : s.Inv) (hts : Undisturbed ts)
    (hplay : play ts s = .next s') : s'.Inv :=
  play_undisturbed_keeps (fun _ h => h.withEnv _) (fun _ _ _ _ _ h ht => runTurn_keeps_inv h ht) hinv hts hplay

/-- A pending event is claimed and consumed in the handler's next two turns (R174, R175). -/
theorem handler_claims_then_consumes {s : State} (hidle : s.act.hbPhase = .idle) (hpend : s.act.togglePending = true) :
    ∃ c, play [.handler, .handler] s = .next c ∧ c.params = s.params ∧ c.act = s.act.claimStep.consumeStep := by
  refine ⟨handlerStep (handlerStep s.counted).counted, rfl, rfl, ?_⟩
  change (s.act.handler s.params).handler s.params = _
  rw [Actuation.handler_of_event hidle hpend]
  exact Actuation.handler_of_claim rfl

/-- A schedule without a handler's turn counts the dead time on. -/
theorem play_deadTimeCounted {s s' : State} {ts : List Turn} (hts : Undisturbed ts) (hhandler : .handler ∉ ts)
    (hplay : play ts s = .next s') : s.act.DeadTimeCounted s.params (ts.count .tick) s'.act := by
  rw [← Nat.zero_add (ts.count _)]
  exact play_counts_ticks (allowed := fun t => t ≠ .handler ∧ t ≠ .reset)
    (fun ⟨hh, hr⟩ hp h ht => h.trans (hp ▸ runTurn_deadTimeCounted hh hr ht)) rfl (.refl _ _)
    (fun t ht => ⟨fun he => hhandler (he ▸ ht), (hts.of_mem t ht).2⟩) hplay

/-- Settles O39: the claim and the consume latch the target and start the dead time, the middle counts it to its end
(`play_deadTimeCounted`), and the handler drives the target. -/
theorem guardedToggleFollowsTheDirectionSequence : Obligations.GuardedToggleFollowsTheDirectionSequence := by
  intro s mid hinv hidle hpend hmid hhandler hticks
  obtain ⟨c, hconsume, hp, hact⟩ := handler_claims_then_consumes hidle hpend
  have hcinv : c.Inv := play_undisturbed_keeps_inv hinv (by decide) hconsume
  obtain ⟨t, hplay⟩ := play_undisturbed_next hcinv hmid
  have htoDrive : play ([.handler, .handler] ++ mid) s = .next t := (play_append hconsume mid).trans hplay
  have hcounted : s.act.claimStep.consumeStep.DeadTimeCounted s.params (mid.count .tick) t.act :=
    hact ▸ hp ▸ play_deadTimeCounted hmid hhandler hplay
  have hdue : dtTicks t.params ≤ t.act.hbDt := by
    rw [play_undisturbed_params hmid hplay, hp, hcounted.hbDt rfl (Nat.zero_le _)]
    exact le_min (hticks.trans (Nat.le_add_left _ _)) le_rfl
  have hdrive : t.act.handler t.params = t.act.driveStep := Actuation.handler_of_due hcounted.hbPhase hdue
  refine ⟨t, handlerStep t.counted, htoDrive, hcounted.outA, hcounted.outB, play_append htoDrive [.handler], ?_, ?_⟩
  · change (t.act.handler t.params).hbPhase = _
    rw [hdrive]; rfl
  · change dirOf (t.act.handler t.params).outA (t.act.handler t.params).outB = _
    rw [hdrive, Actuation.dirOf_driveStep, hcounted.hbTarget]
    change some (nextTarget s.act.outA s.act.outB) = _
    rw [nextTarget_of_dirOf, apply_ite some]

end Sys2Proof.Machine
end

section
/-! PROOFS. Errors and stops (spec/60_exceptions.md R200, R202, R204): which error code a CMD write can leave, and that
nothing stops the machine but a host access that spec/20_memory.md R61 refuses. -/

namespace Sys2Proof.Machine

open Sys2Proof.Config

/-! ### The error code after a CMD write -/

/-- Among the framer commands only RDRES issues RDRES's operation code, with its channel as the operand (30_encoding.md
R83). -/
theorem exec_framerCommand_rdres {i : Instr} (hi : isFramerCommand i = true) :
    ∃ opc a d, (∀ s, exec i s = .next (issueFramer opc a d s)) ∧ (opc = opRDRES → i = .rdres a) := by
  cases i with
  | wrreg addr value => exact ⟨opWRREG, addr, value, fun _ => rfl, fun h => absurd h (by decide)⟩
  | rdreg addr => exact ⟨opRDREG, addr, 0, fun _ => rfl, fun h => absurd h (by decide)⟩
  | rdres ch => exact ⟨opRDRES, ch, 0, fun _ => rfl, fun _ => rfl⟩
  | rdid => exact ⟨opRDID, 0, 0, fun _ => rfl, fun h => absurd h (by decide)⟩
  | devrst => exact ⟨opDEVRST, 0, 0, fun _ => rfl, fun h => absurd h (by decide)⟩
  | init => exact ⟨opINIT, 0, 0, fun _ => rfl, fun h => absurd h (by decide)⟩
  | setduty pct => cases hi
  | sethz hz => cases hi

/-- An overrun keeps ERR, a start clears it, and an RDRES of no channel makes it INVALID_PARAM (R88,
41_register_protocol.md R120). -/
theorem issueFramer_err_cases (opc : BitVec 4) (a : Byte) (d : Half) (s : State) :
    (issueFramer opc a d s).fr.err = s.fr.err ∨ (issueFramer opc a d s).fr.err = .none ∨
    ((issueFramer opc a d s).fr.err = .invalidParam ∧ s.fr.busy = false ∧ opc = opRDRES ∧ 4 ≤ a.toNat) := by
  cases hb : s.fr.busy with
  | true =>
    rw [issueFramer_of_busy hb]
    exact .inl rfl
  | false =>
    rw [issueFramer_fr, hb, if_neg Bool.false_ne_true]
    obtain ⟨hopc, hch, he⟩ | ⟨-, he⟩ := accept_cases s.fr opc a d
    · rw [he]
      exact .inr (.inr ⟨rfl, rfl, hopc, Nat.le_of_not_lt (of_decide_eq_false hch)⟩)
    · rw [he]
      exact .inr (.inl rfl)

/-- Settles O27: a framer command's CMD write changes ERR only as `issueFramer_err_cases` lists, and an actuation
command leaves the framer group alone. -/
theorem onlyRdresRaisesInvalidParam : Obligations.OnlyRdresRaisesInvalidParam := by
  intro i s t hexec hne
  cases hi : isFramerCommand i with
  | true =>
    obtain ⟨opc, a, d, he, hrdres⟩ := exec_framerCommand_rdres hi
    rw [he] at hexec; cases hexec
    obtain hkept | hnone | ⟨herr, hb, hopc, hch⟩ := issueFramer_err_cases opc a d s
    · exact absurd hkept hne
    · exact .inl hnone
    · exact .inr ⟨herr, hb, a, hrdres hopc, hch⟩
  | false =>
    obtain ⟨u, he⟩ := exec_actuationCommand hi
    rw [he] at hexec; cases hexec
    exact absurd rfl hne

/-! ### What stops -/

/-- R61 gives an access of `bytes` bytes at `off` no meaning. -/
abbrev OutsideRegisterMap (off bytes : Nat) : Prop := bytes ≠ 4 ∨ off % 4 ≠ 0 ∨ 0x1C < off

/-- `h` is a write or a read that R61 refuses. -/
def IsRefusedAccess (h : HostStep) : Prop :=
  ∃ off bytes, ((∃ v, h = .wr off bytes v) ∨ (∃ n, h = .rd off bytes n)) ∧ OutsideRegisterMap off bytes

/-- Every aligned offset up to 0x1C is a register's (R61). -/
theorem hostRegister_of_aligned (s : State) {off : Nat} (halign : off % 4 = 0) (hle : off ≤ 0x1C) :
    ∃ w, hostRegister s off = some w := by
  apply hostRegister_of_mem
  simp only [List.mem_cons, List.not_mem_nil, or_false]
  omega

/-- Only the offsets that R61 refuses have no register. -/
theorem refused_offset_of_no_register {s : State} {off : Nat} (h : hostRegister s off = none) :
    off % 4 ≠ 0 ∨ 0x1C < off := by
  by_contra hserved
  obtain ⟨halign, hle⟩ := not_or.mp hserved
  obtain ⟨w, hw⟩ := hostRegister_of_aligned s (not_not.mp halign) (Nat.le_of_not_lt hle)
  exact nomatch hw.symm.trans h

/-- No command's meaning stops (R204). -/
theorem exec_next (i : Instr) (s : State) : ∃ s', exec i s = .next s' := by
  obtain ⟨opc, a, d, he, -⟩ | ⟨pct, -, he⟩ | ⟨hz, -, he⟩ := exec_next_cases i s
  all_goals exact ⟨_, he⟩

/-- No command word stops, legal or not (R201, R204). -/
theorem issueWord_next (v : Word) (s : State) : ∃ s', issueWord v s = .next s' := by
  cases hd : decode v with
  | error e => exact ⟨_, issueWord_of_decode_error hd s⟩
  | ok i =>
    rw [issueWord_of_decode_ok hd]
    exact exec_next i s

/-- A write is served, or it is refused for its width or its offset (R61). -/
theorem memWrite_next_or_refused (off bytes : Nat) (v : Word) (s : State) :
    (∃ s', memWrite off bytes v s = .next s') ∨
    (OutsideRegisterMap off bytes ∧ ∃ r, memWrite off bytes v s = .refused r) := by
  by_cases hbytes : bytes = 4
  · subst hbytes
    cases hreg : hostRegister s off with
    | some w =>
      by_cases h0 : off = 0x00
      · subst h0
        exact .inl (issueWord_next v s)
      · exact .inl ⟨s, memWrite_of_register hreg h0 v⟩
    | none => exact .inr ⟨.inr (refused_offset_of_no_register hreg), _, memWrite_of_no_register hreg v⟩
  · exact .inr ⟨.inl hbytes, _, memWrite_of_width hbytes off v s⟩

/-- A read is served, or it is refused for its width or its offset (R61). -/
theorem memRead_next_or_refused (off bytes : Nat) (name : String) (s : State) :
    (∃ s', memRead off bytes name s = .next s') ∨
    (OutsideRegisterMap off bytes ∧ ∃ r, memRead off bytes name s = .refused r) := by
  by_cases hbytes : bytes = 4
  · subst hbytes
    cases hreg : hostRegister s off with
    | some w => exact .inl ⟨_, memRead_of_register hreg name⟩
    | none => exact .inr ⟨.inr (refused_offset_of_no_register hreg), _, memRead_of_no_register hreg name⟩
  · exact .inr ⟨.inl hbytes, _, memRead_of_width hbytes off name s⟩

/-- A step of the host's program has a next state, or it is an access that R61 refuses. -/
theorem runHostStep_next_or_refused (h : HostStep) (s : State) :
    (∃ s', runHostStep h s = .next s') ∨ (IsRefusedAccess h ∧ ∃ r, runHostStep h s = .refused r) := by
  cases h with
  | wr off bytes v =>
    exact (memWrite_next_or_refused off bytes v s).imp_right
      (.imp_left fun hcause => ⟨off, bytes, .inl ⟨v, rfl⟩, hcause⟩)
  | rd off bytes name =>
    exact (memRead_next_or_refused off bytes name s).imp_right
      (.imp_left fun hcause => ⟨off, bytes, .inr ⟨name, rfl⟩, hcause⟩)
  | waitIdle => exact .inl ⟨_, rfl⟩

/-- From the invariant a turn has a next state, or it is the host's at an access that R61 refuses: the framer is never
outside its program (10_state.md R25), and the other agents' operations always answer. -/
theorem runTurn_next_or_refused {s : State} (hinv : s.Inv) (t : Turn) :
    (∃ s', runTurn t s = .next s') ∨
    (t = .host ∧ IsRefusedAccess s.nextHostStep ∧ ∃ r, runTurn t s = .refused r) := by
  cases t with
  | host => exact (runHostStep_next_or_refused s.nextHostStep s.afterHostStep).imp_right fun h => ⟨rfl, h⟩
  | framer => exact .inl (framerTurn_next hinv.fr)
  | tick => exact .inl ⟨_, rfl⟩
  | handler => exact .inl ⟨_, rfl⟩
  | loader => exact .inl ⟨_, rfl⟩
  | reset => exact .inl ⟨_, rfl⟩

/-- Settles O46: taking the turn off the schedule keeps the invariant, and from it the turn has a next state or is such an
access (`runTurn_next_or_refused`). -/
theorem onlyRefusedHostAccessesStop : Obligations.OnlyRefusedHostAccessesStop := by
  intro s hinv
  have hturn : (∃ s', step s = .next s') ∨
      (s.nextTurn = .host ∧ IsRefusedAccess s.afterTurn.nextHostStep ∧ ∃ r, step s = .refused r) :=
    runTurn_next_or_refused (s := s.afterTurn) (hinv.withEnv _) s.nextTurn
  obtain ⟨s', hnext⟩ | ⟨hhost, haccess, r', hrefused⟩ := hturn
  · rw [hnext]
    exact ⟨nofun, nofun⟩
  · rw [hrefused]
    exact ⟨nofun, fun _ _ => ⟨hhost, haccess⟩⟩

end Sys2Proof.Machine
end

section
/-! PROOFS. The RESET step (spec/70_reset_and_hazards.md R220 to R222): what it sets, what it keeps, and what the host
registers read after it. -/

namespace Sys2Proof.Machine

open Sys2Proof.Config

/-! ### The host registers after RESET -/

theorem Framer.statusWord_atReset : Framer.atReset.statusWord = 0 := rfl

/-- Of ACT_STATUS only TOG_RUN can be 1 after RESET, at bit 3 (10_state.md R38). -/
theorem Actuation.statusWord_atReset (p : Params) :
    (Actuation.atReset p).statusWord = if p.resetToggleHz = 0 then 0 else 8 := by
  have hword : (Actuation.atReset p).statusWord.toNat = 8 * (Actuation.atReset p).togRun.toNat := by
    rw [Actuation.statusWord_toNat, Actuation.view_code_toNat, Actuation.outPwm_toNat]
    simp [Actuation.atReset, dirCode_toNat, Phase.code_toNat]
  apply BitVec.eq_of_toNat_eq
  rw [hword]
  by_cases hstopped : p.resetToggleHz = 0
  · rw [if_pos hstopped, Actuation.atReset, decide_eq_true hstopped]
    rfl
  · rw [if_neg hstopped, Actuation.atReset, decide_eq_false hstopped]
    rfl

/-- TOGGLE_HZ is TOG_HZ in the register's 32 bits (10_state.md R39). -/
theorem Actuation.toggleHzWord_eq_ofNat (g : Actuation) : g.toggleHzWord = BitVec.ofNat 32 g.togHz.toNat := by
  rw [← g.toggleHzWord_toNat, BitVec.ofNat_toNat, BitVec.setWidth_eq]

theorem Actuation.pwmCcrNextWord_atReset (p : Params) : (Actuation.atReset p).pwmCcrNextWord = 0 :=
  BitVec.eq_of_toNat_eq ((Actuation.atReset p).pwmCcrNextWord_toNat (Nat.two_pow_pos 31))

/-! ### The RESET step -/

/-- RESET replaces both groups and keeps every other part of the state (R220, R221). -/
theorem resetStep_eq (s : State) :
    resetStep s = { s with fr := Framer.atReset, act := Actuation.atReset s.params } := rfl

/-- Settles O43: the two groups at reset are R220's values with `reload` written out, and each host register is computed
from them. -/
theorem resetSetsEveryElement : Obligations.ResetSetsEveryElement := by
  intro s
  refine ⟨resetStep s, rfl, ?values, rfl, ?frStatus, rfl, ?actStatus, ?toggleHz, rfl, rfl, ?pwmCcrNext⟩
  case values =>
    rw [resetStep_eq, decide_not]
    rfl
  case frStatus => exact congrArg some Framer.statusWord_atReset
  case actStatus => exact congrArg some (Actuation.statusWord_atReset s.params)
  case toggleHz => exact congrArg some (Actuation.atReset s.params).toggleHzWord_eq_ofNat
  case pwmCcrNext => exact congrArg some (Actuation.pwmCcrNextWord_atReset s.params)

end Sys2Proof.Machine
end
